-- ==== Sys2Proof/Word.lean ====
section
/-! DEFINITION. The fixed-width words of the block: the widths that are no parameter (00_scope.md R4, 10_state.md R10, R11). -/

namespace Sys2Proof

/-- The event select word S (30_encoding.md R55). -/
abbrev SelectWord := BitVec 8

/-- A configuration register index, the width of port `cfg_idx` (10_state.md R10, R23). -/
abbrev RegIndex := BitVec 5

/-- A slot 0 to 7, encoded `{wire, idx[1:0]}` (30_encoding.md R57). -/
abbrev Slot := BitVec 3

/-- The position 0 to 3 of a slot within its wire (00_scope.md R6). -/
abbrev Idx := BitVec 2

end Sys2Proof
end

