-- ==== Sys2Proof/Config.lean ====
section
/-! DEFINITION. What an implementation fixes (the open parameters of 00_scope.md R4), the input ports that have those
widths, and the free value that stands for the inputs nobody has listed. -/

namespace Sys2Proof

/-- The implementation parameters of 00_scope.md R4. Their constraints are `Params.wf` (WellFormed.lean). They are
"named arguments of the model": a field of State holds them, and no step changes them (log entry 3). -/
structure Params where
  /-- `ADC_BITS` (N): width of each raw sample. -/
  adcBits : Nat
  /-- `VOLT_BITS` (VW): width of every voltage-valued register and of the configuration data port. -/
  voltBits : Nat
  /-- `LEVEL_BITS` (LW): width of every output-level register. -/
  levelBits : Nat
  /-- `POLL_INTERVAL`: time between two `tick` strobes; "no rule depends on it" (log entry 5). -/
  pollInterval : Nat
deriving DecidableEq, Repr

/-- The input ports of the block in one clock, `clk` apart (10_state.md R10); `n` is N, `vw` is VW. -/
structure Inputs (n vw : Nat) where
  /-- `rst`: synchronous reset, active high. -/
  rst : Bool
  /-- `cfg_we`: configuration write strobe. -/
  cfgWe : Bool
  /-- `cfg_idx`: configuration register index, for writes and for the read port. -/
  cfgIdx : RegIndex
  /-- `cfg_wdata`: configuration write data. -/
  cfgWdata : BitVec vw
  /-- `tick`: cycle and polling strobe. -/
  tick : Bool
  /-- `raw_a`: raw sample of wire A. -/
  rawA : BitVec n
  /-- `raw_b`: raw sample of wire B. -/
  rawB : BitVec n
deriving DecidableEq, Repr, Inhabited

/-- Every input 0: what the trace notation gives each input a line does not name (30_encoding.md R61). -/
def Inputs.zero (n vw : Nat) : Inputs n vw where
  rst := false
  cfgWe := false
  cfgIdx := 0
  cfgWdata := 0
  tick := false
  rawA := 0
  rawB := 0

/-- FREE VALUE (log entry 2): the inputs of clock edge number `edge` where the state lists none. The environment
"is free: the model must hold for every sequence of inputs" (00_scope.md R9), so nothing says what they are. -/
opaque Config.freeInputs (n vw edge : Nat) : Inputs n vw

/-- DESIGN CHOICE (log entry 4): the parameters of `State.reset`. 10, 16 and 8 are the convention of 95_test_vectors.md
(92_eei_decisions.md D22); the spec gives no value. -/
def Config.vectorParams : Params where
  adcBits := 10
  voltBits := 16
  levelBits := 8
  pollInterval := 1

end Sys2Proof
end

