-- ==== Sys2Proof/Syntax.lean ====
section
/-! DEFINITION. The syntax of the block: the nine events of spec/opcode_table.json, the register names of 10_state.md
R23, and the trace notation of 30_encoding.md R61. -/

namespace Sys2Proof

/-- The nine events of 30_encoding.md R55, one constructor per row of spec/opcode_table.json. "Operands are not part of
`S`; they are the data ports of the same clock" (R56): no constructor has an argument (log entry 9). -/
inductive Instr where
  /-- RESET, 70_reset_and_hazards.md R135. -/
  | reset
  /-- CFGWR, 45_host_events.md R110. -/
  | cfgwr
  /-- NOP, 45_host_events.md R111. -/
  | nop
  /-- TICKOFF, 45_host_events.md R112. -/
  | tickoff
  /-- EMIT_A, 44_dispatch.md R100. -/
  | emitA
  /-- EMIT_B, 44_dispatch.md R101. -/
  | emitB
  /-- NOACT, 44_dispatch.md R102. -/
  | noact
  /-- HOLD, 43_pulse_emitter.md R92. -/
  | hold
  /-- RELEASE, 43_pulse_emitter.md R93. -/
  | release
deriving DecidableEq, Repr

/-- The two sense wires (00_scope.md R6). -/
inductive Wire where
  /-- Wire A, the source's wire 1, wire index 0. -/
  | a
  /-- Wire B, the source's wire 2, wire index 1. -/
  | b
deriving DecidableEq, Repr

/-- The legal values of CTRL.RELMODE (10_state.md R16); the value 3 is never held (R28 item 3; log entry 7). -/
inductive RelMode where
  /-- 0: hold while either wire is below the floor. -/
  | both
  /-- 1: hold while wire A is below the floor. -/
  | aOnly
  /-- 2: hold while wire B is below the floor. -/
  | bOnly
deriving DecidableEq, Repr

/-- The registers of the index space (10_state.md R23). -/
inductive Reg where
  | ctrl
  | status
  | vref
  | floor
  | tol
  | wiremap
  | out
  | trig (s : Slot)
  | act (s : Slot)
deriving DecidableEq, Repr

/-- One line of the trace notation, one clock (30_encoding.md R61); numbers are as written, and `TraceLine.wf` checks that
they fit their ports. A register name is written as its index (`Reg.index`). -/
inductive TraceLine where
  | reset
  | cfgwr (index value : Nat)
  | nop
  | tick (a b : Nat)
deriving DecidableEq, Repr

/-- A line or a pseudo-line of the trace notation (30_encoding.md R61). -/
inductive TraceItem where
  | line (l : TraceLine)
  /-- `ENABLE`. -/
  | enable
  /-- `ENABLE mode`. -/
  | enableMode (m : RelMode)
  /-- `TRIGS w, t0, t1, t2, t3`. -/
  | trigs (w : Wire) (t0 t1 t2 t3 : Nat)
  /-- `ACTS w, l0, l1, l2, l3`. -/
  | acts (w : Wire) (l0 l1 l2 l3 : Nat)
  /-- `NOPS n`. -/
  | nops (n : Nat)
  /-- `TICKS n, a, b`. -/
  | ticks (n a b : Nat)
deriving DecidableEq, Repr

end Sys2Proof
end

