-- ==== Sys2Proof/WellFormed.lean ====
section
/-! DEFINITION. Well-formedness: the constraints on the parameters (00_scope.md R4) and the ranges of the numbers of a
trace line. An event has no operand and every select word names one, so every `Instr` is well formed (30_encoding.md R60). -/

namespace Sys2Proof

/-- The constraints of 00_scope.md R4: N >= 1, VW >= 8, VW >= LW, LW >= 1, POLL_INTERVAL positive. -/
def Params.wf (p : Params) : Bool :=
  decide (1 ≤ p.adcBits) && decide (8 ≤ p.voltBits) && decide (p.levelBits ≤ p.voltBits)
    && decide (1 ≤ p.levelBits) && decide (0 < p.pollInterval)

/-- The numbers of a line fit the ports they are driven on (10_state.md R10): a 5-bit index, VW data bits, N sample bits.
"A model that takes `raw` as an unbounded natural must `refuse` values above M" (93_implementation_defined.md U2). -/
def TraceLine.wf (p : Params) : TraceLine → Bool
  | .reset => true
  | .cfgwr i v => decide (i < 2 ^ 5) && decide (v < 2 ^ p.voltBits)
  | .nop => true
  | .tick a b => decide (a < 2 ^ p.adcBits) && decide (b < 2 ^ p.adcBits)

/-- The same check on a pseudo-line's numbers. -/
def TraceItem.wf (p : Params) : TraceItem → Bool
  | .line l => l.wf p
  | .enable => true
  | .enableMode _ => true
  | .trigs _ t0 t1 t2 t3 => [t0, t1, t2, t3].all fun t => decide (t < 2 ^ p.voltBits)
  | .acts _ l0 l1 l2 l3 => [l0, l1, l2, l3].all fun l => decide (l < 2 ^ p.voltBits)
  | .nops _ => true
  | .ticks _ a b => decide (a < 2 ^ p.adcBits) && decide (b < 2 ^ p.adcBits)

end Sys2Proof
end

