-- ==== Sys2Proof/Decode.lean ====
section
/-! DEFINITION. Decoding of the event select word and of a register index, then the encoders: the match and mask of every
event, the index of every register, and the inputs of every trace line (10_state.md R23, 30_encoding.md R55, R61). -/

namespace Sys2Proof

/-- The event the select word S names, read along the priorities of 30_encoding.md R55: rst over cfg_we over tick, the FSM
state over the comparators, wire A over wire B. Total: "There is no illegal event" (R60). -/
def decode (S : SelectWord) : Instr :=
  if S.getLsbD 7 then .reset
  else if S.getLsbD 6 then .cfgwr
  else if !S.getLsbD 5 then .nop
  else if !S.getLsbD 4 then .tickoff
  else if S.getLsbD 3 then (if S.getLsbD 0 then .hold else .release)
  else if S.getLsbD 2 then .emitA
  else if S.getLsbD 1 then .emitB
  else .noact

/-- Why a list of words is no select word. -/
inductive DecodeRefusal where
  /-- `S` is always 8 bits (30_encoding.md R60): one word, not this many. -/
  | notOneWord (words : Nat)
deriving DecidableEq, Repr

/-- Decoding of a list of 8-bit words: an event is exactly one of them. -/
def decodeWords : List (BitVec 8) → Except DecodeRefusal Instr
  | [S] => .ok (decode S)
  | ws => .error (.notOneWord ws.length)

/-- The `nbits` low bits of `w` as 8-bit words, the first word in the low bits. -/
def wordsOf (nbits w : Nat) : List (BitVec 8) :=
  (List.range (nbits / 8)).map fun k => BitVec.ofNat 8 (w >>> (8 * k))

/-- The event the decoder reads from an instruction of `nbits` bits `w`; `none` where it refuses. -/
def decodeTableWord (nbits w : Nat) : Option Instr :=
  match decodeWords (wordsOf nbits w) with
  | .ok i => some i
  | .error _ => none

/-- The register an index names; `none` for the reserved indices 0x07 and 0x18 to 0x1F (10_state.md R23). -/
def regOfIndex (idx : RegIndex) : Option Reg :=
  let low : Slot := idx.extractLsb' 0 3
  match (idx.extractLsb' 3 2).toNat with
  | 0 =>
    match low.toNat with
    | 0 => some .ctrl
    | 1 => some .status
    | 2 => some .vref
    | 3 => some .floor
    | 4 => some .tol
    | 5 => some .wiremap
    | 6 => some .out
    | _ => none
  | 1 => some (.trig low)
  | 2 => some (.act low)
  | _ => none

/-! Encoders. -/

/-- The `match` column of the event table (30_encoding.md R55). -/
def eventMatch : Instr → SelectWord
  | .reset => 0x80
  | .cfgwr => 0x40
  | .nop => 0x00
  | .tickoff => 0x20
  | .emitA => 0x34
  | .emitB => 0x32
  | .noact => 0x30
  | .hold => 0x39
  | .release => 0x38

/-- The `mask` column of the event table (30_encoding.md R55). -/
def eventMask : Instr → SelectWord
  | .reset => 0x80
  | .cfgwr => 0xC0
  | .nop => 0xE0
  | .tickoff => 0xF0
  | .emitA => 0xFC
  | .emitB => 0xFE
  | .noact => 0xFE
  | .hold => 0xF9
  | .release => 0xF9

/-- The select word of event `i` whose don't-care bits are those of `x` (30_encoding.md R55). -/
def encode (i : Instr) (x : SelectWord) : SelectWord :=
  eventMatch i ||| (x &&& ~~~eventMask i)

/-- The index of a register (10_state.md R23). -/
def Reg.index : Reg → RegIndex
  | .ctrl => 0x00
  | .status => 0x01
  | .vref => 0x02
  | .floor => 0x03
  | .tol => 0x04
  | .wiremap => 0x05
  | .out => 0x06
  | .trig s => 1#2 ++ s
  | .act s => 2#2 ++ s

/-- The number of a wire's slot `i`: `4 * wire + i` (00_scope.md R6). -/
def slotNumber (w : Wire) (i : Nat) : Nat :=
  match w with
  | .a => i
  | .b => 4 + i

/-- The inputs of the clock a line stands for; "every input a line does not name is 0 in that clock" (30_encoding.md R61). -/
def TraceLine.inputs (n vw : Nat) : TraceLine → Inputs n vw
  | .reset => { Inputs.zero n vw with rst := true }
  | .cfgwr i v =>
    { Inputs.zero n vw with cfgWe := true, cfgIdx := BitVec.ofNat 5 i, cfgWdata := BitVec.ofNat vw v }
  | .nop => Inputs.zero n vw
  | .tick a b => { Inputs.zero n vw with tick := true, rawA := BitVec.ofNat n a, rawB := BitVec.ofNat n b }

/-- The number `m` of `ENABLE mode`: 0, 1, 2 (30_encoding.md R61). -/
def modeNumber : RelMode → Nat
  | .both => 0
  | .aOnly => 1
  | .bOnly => 2

/-- The expansion of a pseudo-line (30_encoding.md R61). -/
def TraceItem.expand : TraceItem → List TraceLine
  | .line l => [l]
  | .enable => [.cfgwr 0x00 1]
  | .enableMode m => [.cfgwr 0x00 (1 + 2 * modeNumber m)]
  | .trigs w t0 t1 t2 t3 =>
    [.cfgwr (0x08 + slotNumber w 0) t0, .cfgwr (0x08 + slotNumber w 1) t1,
     .cfgwr (0x08 + slotNumber w 2) t2, .cfgwr (0x08 + slotNumber w 3) t3]
  | .acts w l0 l1 l2 l3 =>
    [.cfgwr (0x10 + slotNumber w 0) l0, .cfgwr (0x10 + slotNumber w 1) l1,
     .cfgwr (0x10 + slotNumber w 2) l2, .cfgwr (0x10 + slotNumber w 3) l3]
  | .nops n => List.replicate n .nop
  | .ticks n a b => List.replicate n (.tick a b)

/-- The inputs, clock by clock, of a trace for a block with parameters `p`; `none` where a number does not fit its port
(`TraceItem.wf`, log entry 11). -/
def assemble (p : Params) (items : List TraceItem) : Option (List (Inputs p.adcBits p.voltBits)) :=
  if items.all (TraceItem.wf p) then
    some ((items.flatMap TraceItem.expand).map (TraceLine.inputs p.adcBits p.voltBits))
  else none

end Sys2Proof
end

