-- ==== Sys2Proof/Machine/State.lean ====
section
/-! DEFINITION. The state: the registers of 10_state.md R11 (`Block`), the parameters and the inputs to come (`State`),
the reasons a step can stop, and the state after reset (R25). -/

namespace Sys2Proof.Machine

/-- The values of the 1-bit register STATE, the only sequencing state (10_state.md R13). -/
inductive Fsm where
  /-- 0: between emissions; each tick classifies. -/
  | idle
  /-- 1: an output is held; each tick polls for release. -/
  | hold
deriving DecidableEq, Repr

/-- The values of the tri-state flag RES (10_state.md R15); 3 is never produced (log entry 7). -/
inductive Res where
  /-- 0 NO_DATA: no dispatch cycle has run since reset. -/
  | noData
  /-- 1 NOT_MATCHED. -/
  | notMatched
  /-- 2 MATCHED. -/
  | matched
deriving DecidableEq, Repr

/-- "The architectural state of the block is exactly the registers of this table, and nothing else" (10_state.md R11);
`vw` is VW and `lw` is LW. -/
structure Block (vw lw : Nat) where
  /-- CTRL.EN: 0 configuration mode, 1 run mode (R16). -/
  en : Bool
  /-- CTRL.RELMODE: the release condition (R16). -/
  relmode : RelMode
  /-- STATE (R13). -/
  fsm : Fsm
  /-- RES (R15). -/
  res : Res
  /-- SLOT: the slot of the most recent match (R15). -/
  slot : Slot
  /-- VREF: the full-scale reference (R18). -/
  vref : BitVec vw
  /-- FLOOR: the floor threshold voltage (R19). -/
  floor : BitVec vw
  /-- TOL: the tolerance of the tolerance-window policy (R20). -/
  tol : BitVec vw
  /-- WIREMAP: bit s is the wire slot s was learned on (R21). -/
  wiremap : BitVec 8
  /-- OUT: the commanded output level (R22). -/
  out : BitVec lw
  /-- TRIG[0] to TRIG[7]: the trigger voltages (R12). -/
  trig : Vector (BitVec vw) 8
  /-- ACT[0] to ACT[7]: the action levels (R14). -/
  act : Vector (BitVec lw) 8
deriving DecidableEq, Repr

/-- The registers after RESET: "every register of rule R11 is 0" (10_state.md R25). -/
def Block.zero (vw lw : Nat) : Block vw lw where
  en := false
  relmode := .both
  fsm := .idle
  res := .noData
  slot := 0
  vref := 0
  floor := 0
  tol := 0
  wiremap := 0
  out := 0
  trig := Vector.replicate 8 0
  act := Vector.replicate 8 0

/-- The machine: a block of some parameters, and its environment as data. -/
structure State where
  /-- The parameters of 00_scope.md R4 (the MODEL's field, log entry 3). -/
  params : Params
  /-- The registers: all the spec's state (10_state.md R11). -/
  block : Block params.voltBits params.levelBits
  /-- The inputs of the coming clocks; the first is what the ports show now (the MODEL's field, log entry 1). -/
  trace : List (Inputs params.adcBits params.voltBits)
  /-- How many clock edges have been taken: it numbers the free inputs (the MODEL's field, log entry 2). -/
  edge : Nat
deriving DecidableEq, Repr

/-- The reasons a step can stop with a fault. There is none: "The block is never stuck and never faults"
(60_exceptions.md R128). -/
inductive Fault where
deriving DecidableEq, Repr

/-- The reasons an event has no meaning in a state. -/
inductive Refusal where
  /-- Raised by an arm of `exec` whose event has no meaning yet; safe. No arm of this model raises it. -/
  | notModelled (mnemonic : String)
  /-- Raised by the meaning of EMIT_A or EMIT_B in a state in which that wire's reading lies in no window: there is no
  slot to emit, the select word does not name the event, and the step never gets here (log entry 8); safe. -/
  | noMatchToEmit (wire : Wire)
deriving DecidableEq, Repr

/-- The machine with parameters `p` right after RESET, with no inputs listed yet. -/
def State.resetOf (p : Params) : State where
  params := p
  block := Block.zero p.voltBits p.levelBits
  trace := []
  edge := 0

/-- The machine right after reset: every register 0 (10_state.md R25, 70_reset_and_hazards.md R136). The parameters are
those of the spec's test vectors (log entry 4). -/
def State.reset : State := State.resetOf Config.vectorParams

end Sys2Proof.Machine
end

