-- ==== Sys2Proof/Machine/Flags.lean ====
section
/-! DEFINITION. The encodings of the multi-valued fields, flags and optional results: 30_encoding.md R57, R58, R59, and
the words CTRL and STATUS of 10_state.md R16, R17. -/

namespace Sys2Proof

/-- The wire index: 0 for wire A, 1 for wire B (00_scope.md R6). -/
def Wire.bits : Wire → BitVec 1
  | .a => 0
  | .b => 1

/-- The slot of a wire and a slot index, `{wire, idx[1:0]}` (30_encoding.md R57). -/
def slotOf (w : Wire) (i : Idx) : Slot := w.bits ++ i

/-- RELMODE as 2 bits (30_encoding.md R58). -/
def RelMode.bits : RelMode → BitVec 2
  | .both => 0
  | .aOnly => 1
  | .bOnly => 2

/-- The release mode 2 bits name; 3 is reserved (30_encoding.md R58). -/
def RelMode.ofBits (x : BitVec 2) : Option RelMode :=
  match x.toNat with
  | 0 => some .both
  | 1 => some .aOnly
  | 2 => some .bOnly
  | _ => none

end Sys2Proof

namespace Sys2Proof.Machine

/-- STATE as 1 bit (30_encoding.md R58). -/
def Fsm.bits : Fsm → BitVec 1
  | .idle => 0
  | .hold => 1

/-- RES as 2 bits (30_encoding.md R58). -/
def Res.bits : Res → BitVec 2
  | .noData => 0
  | .notMatched => 1
  | .matched => 2

/-- `{RELMODE, EN}`: the bits CTRL holds (10_state.md R16). -/
def Block.ctrlWord {vw lw : Nat} (b : Block vw lw) : BitVec 3 :=
  b.relmode.bits ++ BitVec.ofBool b.en

/-- `{SLOT, RES, STATE}`: the bits STATUS holds (10_state.md R17). -/
def Block.statusWord {vw lw : Nat} (b : Block vw lw) : BitVec 6 :=
  b.slot ++ b.res.bits ++ b.fsm.bits

/-- `enc`: the encoding of `cls_a` and `cls_b` (30_encoding.md R59). -/
def enc : Option Idx → BitVec 3
  | some i => 1#1 ++ i
  | none => 0

/-- `encd`: the encoding of `{dec_valid, dec_slot}` (30_encoding.md R59). -/
def encd : Option Slot → BitVec 4
  | some s => 1#1 ++ s
  | none => 0

end Sys2Proof.Machine
end

