-- ==== Sys2Proof/Machine/Operands.lean ====
section
/-! DEFINITION. The operands of the events: the register files, the voltage sampler and exact comparison
(40_voltage_sampler.md), the threshold classifier (41_threshold_classifier.md), the tolerance-window decoder
(42_tolerance_decoder.md) and the hold condition (43_pulse_emitter.md R90). -/

namespace Sys2Proof.Machine

/-- Read of register `s` of a register file of 8 (10_state.md R12, R14). -/
def readSlot {α : Type} (f : Vector α 8) (s : Slot) : α :=
  f[s.toNat]'(s.isLt)

/-- Write of register `s` of a register file of 8. -/
def writeSlot {α : Type} (f : Vector α 8) (s : Slot) (x : α) : Vector α 8 :=
  f.set s.toNat x s.isLt

/-! Voltages and their comparison. -/

/-- The full-scale code `M = 2^N - 1` (00_scope.md R4). -/
def fullScale (n : Nat) : Nat := 2 ^ n - 1

/-- An exact non-negative rational `num / den`, never rounded and only compared (00_scope.md R5). -/
structure Voltage where
  num : Nat
  den : Nat
deriving DecidableEq, Repr

/-- VOLT: `volt(raw) = raw * VREF / M` (40_voltage_sampler.md R70). -/
def volt {n vw : Nat} (raw : BitVec n) (vref : BitVec vw) : Voltage where
  num := raw.toNat * vref.toNat
  den := fullScale n

/-- `v < T`, by cross-multiplication on mathematical integers (40_voltage_sampler.md R72). -/
def Voltage.lt (v : Voltage) (T : Int) : Bool := decide ((v.num : Int) < T * v.den)

/-- `v <= T` (40_voltage_sampler.md R72). -/
def Voltage.le (v : Voltage) (T : Int) : Bool := decide ((v.num : Int) ≤ T * v.den)

/-- `v > T` (40_voltage_sampler.md R72). -/
def Voltage.gt (v : Voltage) (T : Int) : Bool := decide (T * v.den < (v.num : Int))

/-- `v >= T` (40_voltage_sampler.md R72). -/
def Voltage.ge (v : Voltage) (T : Int) : Bool := decide (T * v.den ≤ (v.num : Int))

/-- `v == T` (40_voltage_sampler.md R72). -/
def Voltage.eq (v : Voltage) (T : Int) : Bool := decide ((v.num : Int) = T * v.den)

/-- BELOW: the floor comparator, strict (40_voltage_sampler.md R71). -/
def below (v : Voltage) (floor : Nat) : Bool := v.lt floor

/-! CLASSIFY, the contiguous-range policy. -/

/-- The scan of CLASSIFY from running lower bound `lb` over the slots still to test, each with its trigger
(41_threshold_classifier.md R75): both tests strict, and `lb <- t[k]` whether or not slot k matched. -/
def scanWindows (v : Voltage) (lb : Nat) : List (Idx × Nat) → Option Idx
  | [] => none
  | (k, t) :: rest => if v.gt lb && v.lt t then some k else scanWindows v t rest

/-- CLASSIFY(v, f, t[0..3]): furthest button first, `for k in 3, 2, 1, 0` (41_threshold_classifier.md R75). -/
def classify (v : Voltage) (f : Nat) (t : Idx → Nat) : Option Idx :=
  scanWindows v f [(3, t 3), (2, t 2), (1, t 1), (0, t 0)]

/-! DECODE, the tolerance-window policy. -/

/-- `TRIG[s] - TOL <= r and r <= TRIG[s] + TOL`, both non-strict, the difference a mathematical integer
(42_tolerance_decoder.md R85). -/
def inTolerance (r : Voltage) (trig tol : Nat) : Bool :=
  r.ge ((trig : Int) - tol) && r.le ((trig : Int) + tol)

/-- The slots in rising order. -/
def allSlots : List Slot := [0, 1, 2, 3, 4, 5, 6, 7]

/-- The wire slot `s` was learned on: WIREMAP bit s, 0 for wire A (10_state.md R21). -/
def wireOfMap (wiremap : BitVec 8) (s : Slot) : Wire :=
  if wiremap.getLsbD s.toNat then .b else .a

/-- DECODE(va, vb): the first slot, in rising order, whose window contains the reading of the wire WIREMAP names for it
(42_tolerance_decoder.md R85). -/
def toleranceDecode (va vb : Voltage) (tol : Nat) (trig : Slot → Nat) (wiremap : BitVec 8) : Option Slot :=
  allSlots.find? fun s =>
    inTolerance (match wireOfMap wiremap s with | .a => va | .b => vb) (trig s) tol

/-- HOLDCOND(mode, blw_a, blw_b): keep holding (43_pulse_emitter.md R90). -/
def holdCond (mode : RelMode) (blwA blwB : Bool) : Bool :=
  match mode with
  | .both => blwA || blwB
  | .aOnly => blwA
  | .bOnly => blwB

/-! The same functions on the registers and the ports of one clock (10_state.md R30). -/

/-- TRIG[s] as a number of voltage units. -/
def Block.trigger {vw lw : Nat} (b : Block vw lw) (s : Slot) : Nat := (readSlot b.trig s).toNat

/-- The ordered triggers of a wire: slot index i uses TRIG[4 * w + i] (10_state.md R12). -/
def Block.triggers {vw lw : Nat} (b : Block vw lw) (w : Wire) (i : Idx) : Nat := b.trigger (slotOf w i)

variable {n vw lw : Nat}

/-- `va = volt(raw_a)` (10_state.md R30). -/
def Block.va (b : Block vw lw) (i : Inputs n vw) : Voltage := volt i.rawA b.vref

/-- `vb = volt(raw_b)` (10_state.md R30). -/
def Block.vb (b : Block vw lw) (i : Inputs n vw) : Voltage := volt i.rawB b.vref

/-- `blw_a` (40_voltage_sampler.md R71). -/
def Block.blwA (b : Block vw lw) (i : Inputs n vw) : Bool := below (b.va i) b.floor.toNat

/-- `blw_b` (40_voltage_sampler.md R71). -/
def Block.blwB (b : Block vw lw) (i : Inputs n vw) : Bool := below (b.vb i) b.floor.toNat

/-- `CLASSIFY(volt(raw_a), FLOOR, TRIG[0..3])` (44_dispatch.md R103). -/
def Block.clsA (b : Block vw lw) (i : Inputs n vw) : Option Idx := classify (b.va i) b.floor.toNat (b.triggers .a)

/-- `CLASSIFY(volt(raw_b), FLOOR, TRIG[4..7])` (44_dispatch.md R103). -/
def Block.clsB (b : Block vw lw) (i : Inputs n vw) : Option Idx := classify (b.vb i) b.floor.toNat (b.triggers .b)

/-- `DECODE(va, vb)` on TOL, TRIG and WIREMAP (42_tolerance_decoder.md R85). -/
def Block.dec (b : Block vw lw) (i : Inputs n vw) : Option Slot :=
  toleranceDecode (b.va i) (b.vb i) b.tol.toNat b.trigger b.wiremap

/-- `HOLDCOND(CTRL.RELMODE, blw_a, blw_b)` (43_pulse_emitter.md R90). -/
def Block.holdBit (b : Block vw lw) (i : Inputs n vw) : Bool := holdCond b.relmode (b.blwA i) (b.blwB i)

end Sys2Proof.Machine
end

