-- ==== Sys2Proof/Machine/Ops.lean ====
section
/-! DEFINITION. The named operations over the registers: RegRead, RegWrite, the emission, the release, the clearing of
RESET; and over the state: the inputs of the current clock and the clock edge. There is no trap to take and none to
return from (60_exceptions.md R123, R124); the emission and the release are the nearest things. -/

namespace Sys2Proof.Machine

variable {vw lw : Nat}

/-- RegRead(idx), zero-extended to VW bits; a reserved index reads as 0 (20_memory.md R42). -/
def Block.regRead (b : Block vw lw) (idx : RegIndex) : BitVec vw :=
  match regOfIndex idx with
  | some .ctrl => b.ctrlWord.setWidth vw
  | some .status => b.statusWord.setWidth vw
  | some .vref => b.vref
  | some .floor => b.floor
  | some .tol => b.tol
  | some .wiremap => b.wiremap.setWidth vw
  | some .out => b.out.setWidth vw
  | some (.trig s) => readSlot b.trig s
  | some (.act s) => (readSlot b.act s).setWidth vw
  | none => 0

/-- A write to CTRL: RELMODE only while EN = 0 and never to 3, EN set only; both from the state before the edge
(45_host_events.md R110, 10_state.md R16). -/
def Block.writeCtrl (b : Block vw lw) (d : BitVec vw) : Block vw lw :=
  { b with
    relmode := if b.en then b.relmode else (RelMode.ofBits (d.extractLsb' 1 2)).getD b.relmode
    en := b.en || d.getLsbD 0 }

/-- A write to a configuration register other than CTRL while EN = 0, truncated to the register's width; STATUS, OUT and
reserved indices ignore it (45_host_events.md R110, 20_memory.md R41). -/
def Block.writeUnlocked (b : Block vw lw) (idx : RegIndex) (d : BitVec vw) : Block vw lw :=
  match regOfIndex idx with
  | some .vref => { b with vref := d }
  | some .floor => { b with floor := d }
  | some .tol => { b with tol := d }
  | some .wiremap => { b with wiremap := d.setWidth 8 }
  | some (.trig s) => { b with trig := writeSlot b.trig s d }
  | some (.act s) => { b with act := writeSlot b.act s (d.setWidth lw) }
  | some .ctrl | some .status | some .out | none => b

/-- RegWrite(idx, d): CTRL by its own rule, the rest only while EN = 0 (45_host_events.md R110). -/
def Block.regWrite (b : Block vw lw) (idx : RegIndex) (d : BitVec vw) : Block vw lw :=
  if idx = 0x00 then b.writeCtrl d
  else if b.en then b
  else b.writeUnlocked idx d

/-- The emission of slot `s`: OUT, SLOT, RES and STATE (44_dispatch.md R100, R101). -/
def Block.emit (b : Block vw lw) (s : Slot) : Block vw lw :=
  { b with out := readSlot b.act s, slot := s, res := .matched, fsm := .hold }

/-- A dispatch cycle that matched nothing (44_dispatch.md R102). -/
def Block.noMatch (b : Block vw lw) : Block vw lw :=
  { b with res := .notMatched }

/-- The end of a hold (43_pulse_emitter.md R93). -/
def Block.release (b : Block vw lw) : Block vw lw :=
  { b with out := 0, fsm := .idle }

/-- What RESET leaves: every register at its reset value, whatever it held (70_reset_and_hazards.md R135). -/
def Block.cleared (_ : Block vw lw) : Block vw lw := Block.zero vw lw

/-- The inputs of a clock: the first that are listed, and free where none is (log entries 1, 2). -/
def currentInputs (n vw edge : Nat) : List (Inputs n vw) → Inputs n vw
  | [] => Config.freeInputs n vw edge
  | i :: _ => i

/-- The inputs of the current clock of a state, what the ports show before the coming edge. -/
def State.inputs (s : State) : Inputs s.params.adcBits s.params.voltBits :=
  currentInputs s.params.adcBits s.params.voltBits s.edge s.trace

/-- The state with other registers: all an event writes. -/
def State.withBlock (s : State) (b : Block s.params.voltBits s.params.levelBits) : State :=
  { s with block := b }

/-- The clock moves on: the ports show the inputs of the next clock. -/
def State.advance (s : State) : State :=
  { s with trace := s.trace.tail, edge := s.edge + 1 }

end Sys2Proof.Machine
end

