-- ==== Sys2Proof/Machine/DispatchCycle.lean ====
section
/-! DEFINITION. The meanings of the dispatch cycle: EMIT_A, EMIT_B and NOACT (44_dispatch.md). -/

namespace Sys2Proof.Machine

/-- EMIT_A: the slot `i` that wire A classifies to (44_dispatch.md R100). The select word names this event only when there
is one (log entry 8). -/
def execEmitA (s : State) : Host.Outcome State Fault Refusal :=
  match s.block.clsA s.inputs with
  | some i => .next (s.withBlock (s.block.emit (slotOf .a i)))
  | none => .refused (.noMatchToEmit .a)

/-- EMIT_B: the slot `4 + j` where wire B classifies to `j` (44_dispatch.md R101). The select word names this event only
when there is one (log entry 8). -/
def execEmitB (s : State) : Host.Outcome State Fault Refusal :=
  match s.block.clsB s.inputs with
  | some j => .next (s.withBlock (s.block.emit (slotOf .b j)))
  | none => .refused (.noMatchToEmit .b)

/-- NOACT: RES becomes NOT_MATCHED (44_dispatch.md R102). -/
def execNoact (s : State) : Host.Outcome State Fault Refusal :=
  .next (s.withBlock s.block.noMatch)

end Sys2Proof.Machine
end

