-- ==== Sys2Proof/Machine/Emitter.lean ====
section
/-! DEFINITION. The meanings of the polling tick: HOLD and RELEASE (43_pulse_emitter.md). -/

namespace Sys2Proof.Machine

/-- HOLD: no register changes, the output stays at the emitted level (43_pulse_emitter.md R92). -/
def execHold (s : State) : Host.Outcome State Fault Refusal :=
  .next s

/-- RELEASE: OUT becomes 0 and STATE becomes IDLE; nothing is dispatched on this tick (43_pulse_emitter.md R93). -/
def execRelease (s : State) : Host.Outcome State Fault Refusal :=
  .next (s.withBlock s.block.release)

end Sys2Proof.Machine
end

