-- ==== Sys2Proof/Machine/HostEvents.lean ====
section
/-! DEFINITION. The meanings of RESET (70_reset_and_hazards.md), CFGWR, NOP and TICKOFF (45_host_events.md). -/

namespace Sys2Proof.Machine

/-- RESET: every register to its reset value (70_reset_and_hazards.md R135). -/
def execReset (s : State) : Host.Outcome State Fault Refusal :=
  .next (s.withBlock s.block.cleared)

/-- CFGWR: RegWrite(cfg_idx, cfg_wdata); an ignored write is ignored silently (45_host_events.md R110). -/
def execCfgwr (s : State) : Host.Outcome State Fault Refusal :=
  .next (s.withBlock (s.block.regWrite s.inputs.cfgIdx s.inputs.cfgWdata))

/-- NOP: no register changes (45_host_events.md R111). -/
def execNop (s : State) : Host.Outcome State Fault Refusal :=
  .next s

/-- TICKOFF: no register changes (45_host_events.md R112). -/
def execTickoff (s : State) : Host.Outcome State Fault Refusal :=
  .next s

end Sys2Proof.Machine
end

