-- ==== Sys2Proof/Machine/Dispatch.lean ====
section
/-! DEFINITION. `exec`: one arm per event, each one call of its meaning. -/

namespace Sys2Proof.Machine

def exec (i : Instr) (s : State) : Host.Outcome State Fault Refusal :=
  match i with
  | .reset => Sys2Proof.Machine.execReset s
  | .cfgwr => Sys2Proof.Machine.execCfgwr s
  | .nop => Sys2Proof.Machine.execNop s
  | .tickoff => Sys2Proof.Machine.execTickoff s
  | .emitA => Sys2Proof.Machine.execEmitA s
  | .emitB => Sys2Proof.Machine.execEmitB s
  | .noact => Sys2Proof.Machine.execNoact s
  | .hold => Sys2Proof.Machine.execHold s
  | .release => Sys2Proof.Machine.execRelease s

end Sys2Proof.Machine
end

