-- ==== Sys2Proof/Machine/Select.lean ====
section
/-! DEFINITION. The event select word S of the current clock (30_encoding.md R55), and the state in which S is a given
word (what `State.withFetchWord` calls). -/

namespace Sys2Proof.Machine

variable {n vw lw : Nat}

/-- S = {rst, cfg_we, tick, EN, STATE, mA, mB, hold}, all taken before the edge (30_encoding.md R55). -/
def Block.selectWord (b : Block vw lw) (i : Inputs n vw) : SelectWord :=
  BitVec.ofBool i.rst ++ BitVec.ofBool i.cfgWe ++ BitVec.ofBool i.tick ++ BitVec.ofBool b.en ++ b.fsm.bits
    ++ BitVec.ofBool (b.clsA i).isSome ++ BitVec.ofBool (b.clsB i).isSome ++ BitVec.ofBool (b.holdBit i)

/-- S of the current clock of a state. -/
def State.selectWord (s : State) : SelectWord := s.block.selectWord s.inputs

/-- The event of the current clock. -/
def State.event (s : State) : Instr := decode s.selectWord

/-- The registers, made to show EN, STATE, mA, mB and hold as bits 4 to 0 of `w` when both samples are full scale: VREF is
1, so both wires read 1; FLOOR is 2 or 0; TRIG[2] and TRIG[6] are 2 or 0 above an empty first window (log entry 10). -/
def Block.showing (b : Block vw lw) (w : SelectWord) : Block vw lw :=
  { b with
    en := w.getLsbD 4
    fsm := if w.getLsbD 3 then .hold else .idle
    relmode := .both
    vref := 1
    floor := if w.getLsbD 0 then 2 else 0
    trig := #v[0, 0, if w.getLsbD 2 then 2 else 0, 0, 0, 0, if w.getLsbD 1 then 2 else 0, 0] }

/-- The inputs of a clock whose strobes are bits 7 to 5 of `w`: full-scale samples, cfg_idx and cfg_wdata 0. -/
def strobesOf (n vw : Nat) (w : SelectWord) : Inputs n vw :=
  { Inputs.zero n vw with
    rst := w.getLsbD 7
    cfgWe := w.getLsbD 6
    tick := w.getLsbD 5
    rawA := BitVec.allOnes n
    rawB := BitVec.allOnes n }

/-- The state whose select word is `w` in the clock it is in; the inputs that were listed come after it. -/
def State.showing (s : State) (w : SelectWord) : State :=
  { s with
    block := s.block.showing w
    trace := strobesOf s.params.adcBits s.params.voltBits w :: s.trace }

end Sys2Proof.Machine
end

