-- ==== Sys2Proof/Machine/Step.lean ====
section
/-! DEFINITION. The step: one rising clock edge performs the one event the select word names (00_scope.md R9,
30_encoding.md R55), and the clock moves on. -/

namespace Sys2Proof.Machine

/-- One clock edge: compute S, pick the event, apply its rule, and go on to the inputs of the next clock. -/
def step (s : State) : Host.Outcome State Fault Refusal :=
  match exec s.event s with
  | .next t => .next t.advance
  | .fault f => .fault f
  | .refused r => .refused r

/-- The state in which the very next step sees the select word `w` of `nbits` = 8 bits: the strobes come first among the
inputs, EN, STATE and the comparator bits are made to show what `w` says (log entry 10). -/
def State.withFetchWord (s : State) (_nbits w : Nat) : State :=
  s.showing (BitVec.ofNat 8 w)

end Sys2Proof.Machine
end

