-- ==== Sys2Proof/Machine/TraceText.lean ====
section
/-! DEFINITION. The text of a trace (30_encoding.md R61): comments, numerals, register names, the lines and pseudo-lines,
read into the trace items of Syntax.lean; and the name of every register. -/

namespace Sys2Proof

/-- Why a text is no trace for a block. -/
inductive TextRefusal where
  /-- Line number `line`, counted from 1, is in none of the forms of R61. -/
  | badLine (line : Nat)
  /-- A number of the trace does not fit its port (log entry 11). -/
  | doesNotFit
deriving DecidableEq, Repr

/-- The pieces of a text between separators. -/
def pieces (sep : Char → Bool) : List Char → List (List Char)
  | [] => [[]]
  | c :: cs =>
    match sep c, pieces sep cs with
    | true, ws => [] :: ws
    | false, [] => [[c]]
    | false, w :: ws => (c :: w) :: ws

/-- "A comment runs from `;` to the end of the line" (R61). -/
def uncommented (l : List Char) : List Char := l.takeWhile (· != ';')

/-- The words of a line; blanks and commas stand between them (log entry 11). -/
def wordsOfLine (l : List Char) : List (List Char) :=
  (pieces (fun c => c == ' ' || c == ',' || c == '\t' || c == '\r') (uncommented l)).filter fun w => !w.isEmpty

/-- The value of a decimal digit. -/
def decDigit (c : Char) : Option Nat :=
  if 48 ≤ c.toNat ∧ c.toNat ≤ 57 then some (c.toNat - 48) else none

/-- The value of a hexadecimal digit. -/
def hexDigit (c : Char) : Option Nat :=
  if 97 ≤ c.toNat ∧ c.toNat ≤ 102 then some (c.toNat - 87)
  else if 65 ≤ c.toNat ∧ c.toNat ≤ 70 then some (c.toNat - 55)
  else decDigit c

/-- The number whose digits, after the value `acc` read so far, are the characters of the list. -/
def digits (base : Nat) (digit : Char → Option Nat) (acc : Nat) : List Char → Option Nat
  | [] => some acc
  | c :: cs =>
    match digit c with
    | some d => digits base digit (base * acc + d) cs
    | none => none

/-- "Numbers are decimal, or hexadecimal with `0x`" (R61). -/
def numeral : List Char → Option Nat
  | [] => none
  | '0' :: 'x' :: c :: cs => digits 16 hexDigit 0 (c :: cs)
  | c :: cs => digits 10 decDigit 0 (c :: cs)

/-- The digit of a slot, 0 to 7. -/
def slotDigit (c : Char) : Option Slot :=
  match decDigit c with
  | some k => if k < 8 then some (BitVec.ofNat 3 k) else none
  | none => none

/-- The register a name of 10_state.md R23 stands for. -/
def registerNamed (w : List Char) : Option Reg :=
  match w with
  | ['T', 'R', 'I', 'G', '[', d, ']'] => (slotDigit d).map .trig
  | ['A', 'C', 'T', '[', d, ']'] => (slotDigit d).map .act
  | _ =>
    [("CTRL".toList, Reg.ctrl), ("STATUS".toList, .status), ("VREF".toList, .vref), ("FLOOR".toList, .floor),
      ("TOL".toList, .tol), ("WIREMAP".toList, .wiremap), ("OUT".toList, .out)].lookup w

/-- The name of a register (10_state.md R23). -/
def Reg.name : Reg → List Char
  | .ctrl => "CTRL".toList
  | .status => "STATUS".toList
  | .vref => "VREF".toList
  | .floor => "FLOOR".toList
  | .tol => "TOL".toList
  | .wiremap => "WIREMAP".toList
  | .out => "OUT".toList
  | .trig s => ['T', 'R', 'I', 'G', '[', Char.ofNat (48 + s.toNat), ']']
  | .act s => ['A', 'C', 'T', '[', Char.ofNat (48 + s.toNat), ']']

/-- The operand `reg` of a CFGWR line: "a register name … or a numeric index" (R61). -/
def indexOperand (w : List Char) : Option Nat :=
  match registerNamed w with
  | some r => some r.index.toNat
  | none => numeral w

/-- The wire `w` of TRIGS and ACTS. -/
def wireNamed (w : List Char) : Option Wire :=
  [("A".toList, Wire.a), ("B".toList, .b)].lookup w

/-- The mode of `ENABLE mode`. -/
def modeNamed (w : List Char) : Option RelMode :=
  [("BOTH".toList, RelMode.both), ("A_ONLY".toList, .aOnly), ("B_ONLY".toList, .bOnly)].lookup w

/-- A line or pseudo-line from its first word and its operands (R61). -/
def itemOf (op : List Char) (args : List (List Char)) : Option TraceItem :=
  if op = "RESET".toList then
    (match args with
    | [] => some (.line .reset)
    | _ => none)
  else if op = "CFGWR".toList then
    (match args with
    | [r, v] => do some (.line (.cfgwr (← indexOperand r) (← numeral v)))
    | _ => none)
  else if op = "NOP".toList then
    (match args with
    | [] => some (.line .nop)
    | _ => none)
  else if op = "TICK".toList then
    (match args with
    | [a, b] => do some (.line (.tick (← numeral a) (← numeral b)))
    | _ => none)
  else if op = "ENABLE".toList then
    (match args with
    | [] => some .enable
    | [m] => (modeNamed m).map .enableMode
    | _ => none)
  else if op = "TRIGS".toList then
    (match args with
    | [w, a, b, c, d] =>
      do some (.trigs (← wireNamed w) (← numeral a) (← numeral b) (← numeral c) (← numeral d))
    | _ => none)
  else if op = "ACTS".toList then
    (match args with
    | [w, a, b, c, d] =>
      do some (.acts (← wireNamed w) (← numeral a) (← numeral b) (← numeral c) (← numeral d))
    | _ => none)
  else if op = "NOPS".toList then
    (match args with
    | [n] => (numeral n).map .nops
    | _ => none)
  else if op = "TICKS".toList then
    (match args with
    | [n, a, b] => do some (.ticks (← numeral n) (← numeral a) (← numeral b))
    | _ => none)
  else none

/-- The items of the lines, the first of them line number `k`; an empty line has none. -/
def itemsOfLines (k : Nat) : List (List Char) → Except TextRefusal (List TraceItem)
  | [] => .ok []
  | l :: ls =>
    match wordsOfLine l with
    | [] => itemsOfLines (k + 1) ls
    | op :: args =>
      match itemOf op args, itemsOfLines (k + 1) ls with
      | none, _ => .error (.badLine k)
      | some _, .error e => .error e
      | some it, .ok its => .ok (it :: its)

/-- The inputs, clock by clock, of the text of a trace, for a block with parameters `p`. -/
def assembleText (p : Params) (text : List Char) : Except TextRefusal (List (Inputs p.adcBits p.voltBits)) :=
  match itemsOfLines 1 (pieces (· == '\n') text) with
  | .error e => .error e
  | .ok items =>
    match assemble p items with
    | some tr => .ok tr
    | none => .error .doesNotFit

end Sys2Proof
end

