-- ==== Sys2Proof/Machine/Outputs.lean ====
section
/-! DEFINITION. The output ports: registered outputs, query outputs and the read port, functions of the registers and of
the current inputs with no effect on the state (10_state.md R10, R29, R30, R31). -/

namespace Sys2Proof.Machine

variable {n vw lw : Nat}

/-- The output ports of one clock (10_state.md R10). -/
structure Outputs (vw lw : Nat) where
  cfgRdata : BitVec vw
  outLevel : BitVec lw
  pulse : BitVec 1
  res : BitVec 2
  slot : BitVec 3
  clsA : BitVec 3
  clsB : BitVec 3
  blwA : BitVec 1
  blwB : BitVec 1
  decValid : BitVec 1
  decSlot : BitVec 3
deriving DecidableEq, Repr

/-- The outputs the registers `b` give with the inputs `i`. -/
def Block.outputs (b : Block vw lw) (i : Inputs n vw) : Outputs vw lw where
  cfgRdata := b.regRead i.cfgIdx
  outLevel := b.out
  pulse := b.fsm.bits
  res := b.res.bits
  slot := b.slot
  clsA := enc (b.clsA i)
  clsB := enc (b.clsB i)
  blwA := BitVec.ofBool (b.blwA i)
  blwB := BitVec.ofBool (b.blwB i)
  decValid := (encd (b.dec i)).extractLsb' 3 1
  decSlot := (encd (b.dec i)).extractLsb' 0 3

/-- The outputs of the current clock of a state. -/
def State.outputs (s : State) : Outputs s.params.voltBits s.params.levelBits := s.block.outputs s.inputs

end Sys2Proof.Machine
end

