-- ==== Sys2Proof/Safety.lean ====
section
/-! DEFINITION. The terms statements are made in: windows and well-formed tables, the duties of the host, the invariants
of 10_state.md R28, the locked record, and the step written as "the registers become b". -/

namespace Sys2Proof

variable {n vw : Nat}

/-- A clock that is a tick: `rst = 0`, `cfg_we = 0`, `tick = 1` (30_encoding.md R61). -/
abbrev Inputs.IsTick (i : Inputs n vw) : Prop := i.rst = false ∧ i.cfgWe = false ∧ i.tick = true

/-- A clock with no strobe (30_encoding.md R61). -/
abbrev Inputs.IsNop (i : Inputs n vw) : Prop := i.rst = false ∧ i.cfgWe = false ∧ i.tick = false

end Sys2Proof

namespace Sys2Proof.Machine

variable {n vw lw : Nat}

/-- The exact rational a voltage is (00_scope.md R5, 40_voltage_sampler.md R70). -/
def Voltage.value (v : Voltage) : ℚ := (v.num : ℚ) / v.den

/-- The lower end of window k: the floor for k = 3, and the trigger of the window scanned before it else
(41_threshold_classifier.md R76). -/
def windowLow (f : Nat) (t : Idx → Nat) (k : Idx) : Nat :=
  match k.toNat with
  | 0 => t 1
  | 1 => t 2
  | 2 => t 3
  | _ => f

/-- `v` lies in the open interval `Wk` (41_threshold_classifier.md R76). -/
abbrev InWindow (v : Voltage) (f : Nat) (t : Idx → Nat) (k : Idx) : Prop :=
  v.gt (windowLow f t k) = true ∧ v.lt (t k) = true

/-- `WF(f, t)`: the triggers fall strictly with the index and lie above the floor (41_threshold_classifier.md R77). -/
abbrev WFTable (f : Nat) (t : Idx → Nat) : Prop :=
  f < t 3 ∧ t 3 < t 2 ∧ t 2 < t 1 ∧ t 1 < t 0

/-- The record the host owes the block (70_reset_and_hazards.md R140); the block checks none of it. -/
abbrev HostDuty (b : Block vw lw) : Prop :=
  WFTable b.floor.toNat (b.triggers .a) ∧ WFTable b.floor.toNat (b.triggers .b) ∧ b.wiremap = 0xF0
    ∧ 0 < b.vref.toNat

/-- The invariants of 10_state.md R28 that speak of one state, items 1, 2, 3 and 5; item 3 on the bits a read of CTRL and
STATUS shows. -/
structure Block.Inv (b : Block vw lw) : Prop where
  idle_out : b.fsm = .idle → b.out = 0
  config_mode : b.en = false → b.fsm = .idle ∧ b.out = 0 ∧ b.res = .noData
  res_legal : b.res.bits ≠ 3
  relmode_legal : b.relmode.bits ≠ 3
  hold_matched : b.fsm = .hold → b.res = .matched ∧ b.out = readSlot b.act b.slot

/-- The record and the release mode of `b` and `b'` are the same (10_state.md R28 item 4). -/
abbrev SameRecord (b b' : Block vw lw) : Prop :=
  b'.relmode = b.relmode ∧ b'.vref = b.vref ∧ b'.floor = b.floor ∧ b'.tol = b.tol ∧ b'.wiremap = b.wiremap
    ∧ b'.trig = b.trig ∧ b'.act = b.act

/-- A dispatch cycle on the inputs `i` emits slot `s`: wire A classifies to it, or wire A classifies to nothing and wire B to
it, offset by 4 (44_dispatch.md R103). -/
abbrev Block.Emits (b : Block vw lw) (i : Inputs n vw) (s : Slot) : Prop :=
  (∃ k, b.clsA i = some k ∧ s.toNat = k.toNat)
    ∨ (b.clsA i = none ∧ ∃ k, b.clsB i = some k ∧ s.toNat = 4 + k.toNat)

/-- The state after a clock edge that leaves the registers `b`: the parameters stay, the ports go on to the inputs of the
next clock. -/
def State.clocked (s : State) (b : Block s.params.voltBits s.params.levelBits) : State :=
  { params := s.params, block := b, trace := s.trace.tail, edge := s.edge + 1 }

/-- One clock edge of `s` leaves the registers `b`. -/
def StepsTo (s : State) (b : Block s.params.voltBits s.params.levelBits) : Prop :=
  step s = .next (s.clocked b)

/-- `k` clock edges, stopping at the first fault or refusal. -/
def runSteps : Nat → State → Host.Outcome State Fault Refusal
  | 0, s => .next s
  | k + 1, s =>
    match step s with
    | .next t => runSteps k t
    | .fault f => .fault f
    | .refused r => .refused r

/-- A machine with parameters `p`, registers `b` and the inputs `tr` to come. -/
abbrev State.mk' (p : Params) (b : Block p.voltBits p.levelBits) (tr : List (Inputs p.adcBits p.voltBits)) (k : Nat) :
    State :=
  { params := p, block := b, trace := tr, edge := k }

end Sys2Proof.Machine
end

