-- ==== Sys2Proof/Certificates/Slice0/Obligations.lean ====
section
/-! DEFINITION. The statements for the provers. Each docstring names the rule of spec/ it formalises. An equation
`exec i s = .next { s with block := … }` gives the result and the frame at once: every register it does not name, the
parameters and the inputs to come are as before. `StepsTo s b` says that the clock edge leaves the registers `b`, with the
parameters as before and the ports going on to the next clock's inputs. -/

open Sys2Proof Sys2Proof.Machine

/-! Encoding and selection. -/

/-- A step runs the decoded event (00_scope.md R9, 30_encoding.md R55): the step is `exec` of the event the select word
decodes to; around it the clock moves on to the next inputs. -/
def Obligations.StepRunsTheDecodedEvent : Prop :=
  ∀ (s : State) (i : Instr), decode s.selectWord = i →
    step s = match exec i s with
      | .next t => .next { t with trace := t.trace.tail, edge := t.edge + 1 }
      | .fault f => .fault f
      | .refused r => .refused r

/-- Words written out from the patterns of 30_encoding.md R55 and the samples of 95_test_vectors.md V6. -/
def Obligations.SampleWordsDecode : Prop :=
  decode 0b10000000#8 = .reset ∧ decode 0b01111111#8 = .cfgwr ∧ decode 0b00011111#8 = .nop
    ∧ decode 0b00101111#8 = .tickoff ∧ decode 0b00110111#8 = .emitA ∧ decode 0b00110011#8 = .emitB
    ∧ decode 0b00110001#8 = .noact ∧ decode 0b00111111#8 = .hold ∧ decode 0b00111110#8 = .release

/-- The eight bits of S and where each comes from (30_encoding.md R55); `mA` and `mB` equal `cls_a[2]` and `cls_b[2]`. -/
def Obligations.SelectWordIsBuiltFromItsEightBits : Prop :=
  ∀ (n vw lw : Nat) (b : Block vw lw) (i : Inputs n vw),
    (b.selectWord i).getLsbD 7 = i.rst
    ∧ (b.selectWord i).getLsbD 6 = i.cfgWe
    ∧ (b.selectWord i).getLsbD 5 = i.tick
    ∧ (b.selectWord i).getLsbD 4 = b.en
    ∧ (b.selectWord i).getLsbD 3 = decide (b.fsm = .hold)
    ∧ (b.selectWord i).getLsbD 2 = (classify (volt i.rawA b.vref) b.floor.toNat (b.triggers .a)).isSome
    ∧ (b.selectWord i).getLsbD 1 = (classify (volt i.rawB b.vref) b.floor.toNat (b.triggers .b)).isSome
    ∧ (b.selectWord i).getLsbD 0 = holdCond b.relmode (b.blwA i) (b.blwB i)
    ∧ (b.selectWord i).getLsbD 2 = (b.outputs i).clsA.getLsbD 2
    ∧ (b.selectWord i).getLsbD 1 = (b.outputs i).clsB.getLsbD 2

/-- The event table of 30_encoding.md R55: a select word decodes to an event exactly when it has the event's match under
the event's mask. So the nine patterns are disjoint and cover all 256 words. -/
def Obligations.EventTableDecodes : Prop :=
  ∀ (S : SelectWord) (i : Instr), decode S = i ↔
    match i with
    | .reset => S &&& 0x80 = 0x80
    | .cfgwr => S &&& 0xC0 = 0x40
    | .nop => S &&& 0xE0 = 0x00
    | .tickoff => S &&& 0xF0 = 0x20
    | .emitA => S &&& 0xFC = 0x34
    | .emitB => S &&& 0xFE = 0x32
    | .noact => S &&& 0xFE = 0x30
    | .hold => S &&& 0xF9 = 0x39
    | .release => S &&& 0xF9 = 0x38

/-- Decode and encode agree, both ways (30_encoding.md R55, 10_state.md R23): the word of any event with any don't-care bits
decodes to that event, and every word is the word of its event with its own don't-care bits; an index decodes to a register
exactly when it is the register's index; and the encoded word, put where the step looks for it, selects its event in a
block of any legal parameters (the last clause goes through `withFetchWord`, the model's own construction, log entry 10). -/
def Obligations.EncodeDecodeRoundTrip : Prop :=
  (∀ (i : Instr) (x : SelectWord), decode (encode i x) = i)
    ∧ (∀ S : SelectWord, encode (decode S) S = S)
    ∧ (∀ (i : Instr) (x : SelectWord), decodeTableWord 8 (encode i x).toNat = some i)
    ∧ (∀ (r : Reg) (idx : RegIndex), regOfIndex idx = some r ↔ r.index = idx)
    ∧ (∀ (s : State) (i : Instr) (x : SelectWord), s.params.wf = true →
        (s.withFetchWord 8 (encode i x).toNat).event = i)

/-- Which event a clock edge performs, in the terms of the ports and the registers: the three priorities of
30_encoding.md R55 and 60_exceptions.md R122. -/
def Obligations.PrioritiesSelectTheEvent : Prop :=
  ∀ s : State,
    (s.event = .reset ↔ s.inputs.rst = true)
    ∧ (s.event = .cfgwr ↔ s.inputs.rst = false ∧ s.inputs.cfgWe = true)
    ∧ (s.event = .nop ↔ s.inputs.IsNop)
    ∧ (s.event = .tickoff ↔ s.inputs.IsTick ∧ s.block.en = false)
    ∧ (s.event = .emitA ↔ s.inputs.IsTick ∧ s.block.en = true ∧ s.block.fsm = .idle
        ∧ ∃ i, s.block.clsA s.inputs = some i)
    ∧ (s.event = .emitB ↔ s.inputs.IsTick ∧ s.block.en = true ∧ s.block.fsm = .idle
        ∧ s.block.clsA s.inputs = none ∧ ∃ j, s.block.clsB s.inputs = some j)
    ∧ (s.event = .noact ↔ s.inputs.IsTick ∧ s.block.en = true ∧ s.block.fsm = .idle
        ∧ s.block.clsA s.inputs = none ∧ s.block.clsB s.inputs = none)
    ∧ (s.event = .hold ↔ s.inputs.IsTick ∧ s.block.en = true ∧ s.block.fsm = .hold
        ∧ s.block.holdBit s.inputs = true)
    ∧ (s.event = .release ↔ s.inputs.IsTick ∧ s.block.en = true ∧ s.block.fsm = .hold
        ∧ s.block.holdBit s.inputs = false)

/-! The nine events. -/

/-- RESET (70_reset_and_hazards.md R135, 10_state.md R25): every register becomes 0, and `rst` overrides every other
input. -/
def Obligations.ResetClearsEveryRegister : Prop :=
  ∀ s : State,
    exec .reset s = .next { s with block := {
      en := false, relmode := .both, fsm := .idle, res := .noData, slot := 0, vref := 0, floor := 0, tol := 0,
      wiremap := 0, out := 0, trig := Vector.replicate 8 0, act := Vector.replicate 8 0 } }
    ∧ (s.inputs.rst = true → s.event = .reset ∧ StepsTo s (Block.zero s.params.voltBits s.params.levelBits))

/-- CFGWR (45_host_events.md R110): the write by index, the lock, and the ignored indices; `tick` is not looked at. -/
def Obligations.CfgwrWritesOneRegister : Prop :=
  ∀ s : State,
    (s.inputs.rst = false → s.inputs.cfgWe = true → s.event = .cfgwr)
    ∧ (s.inputs.cfgIdx = 0x00 →
        exec .cfgwr s = .next { s with block := { s.block with
          relmode := if s.block.en then s.block.relmode
            else match (s.inputs.cfgWdata.extractLsb' 1 2).toNat with
              | 0 => .both
              | 1 => .aOnly
              | 2 => .bOnly
              | _ => s.block.relmode
          en := s.block.en || s.inputs.cfgWdata.getLsbD 0 } })
    ∧ (s.inputs.cfgIdx ≠ 0x00 → s.block.en = true → exec .cfgwr s = .next s)
    ∧ (s.block.en = false →
        (s.inputs.cfgIdx = 0x02 →
          exec .cfgwr s = .next { s with block := { s.block with vref := s.inputs.cfgWdata } })
        ∧ (s.inputs.cfgIdx = 0x03 →
          exec .cfgwr s = .next { s with block := { s.block with floor := s.inputs.cfgWdata } })
        ∧ (s.inputs.cfgIdx = 0x04 →
          exec .cfgwr s = .next { s with block := { s.block with tol := s.inputs.cfgWdata } })
        ∧ (s.inputs.cfgIdx = 0x05 →
          exec .cfgwr s = .next { s with block := { s.block with wiremap := s.inputs.cfgWdata.setWidth 8 } })
        ∧ (∀ k : Slot, s.inputs.cfgIdx = 0x08 + k.setWidth 5 →
          exec .cfgwr s = .next { s with block := { s.block with
            trig := s.block.trig.set k.toNat s.inputs.cfgWdata k.isLt } })
        ∧ (∀ k : Slot, s.inputs.cfgIdx = 0x10 + k.setWidth 5 →
          exec .cfgwr s = .next { s with block := { s.block with
            act := s.block.act.set k.toNat (s.inputs.cfgWdata.setWidth s.params.levelBits) k.isLt } })
        ∧ (s.inputs.cfgIdx = 0x01 ∨ s.inputs.cfgIdx = 0x06 ∨ s.inputs.cfgIdx = 0x07 ∨ 0x18 ≤ s.inputs.cfgIdx →
          exec .cfgwr s = .next s))

/-- NOP (45_host_events.md R111): no register changes, and any number of NOPs leaves the registers as they are. -/
def Obligations.NopChangesNothing : Prop :=
  (∀ s : State, exec .nop s = .next s ∧ (s.inputs.IsNop → s.event = .nop))
    ∧ ∀ (p : Params) (b : Block p.voltBits p.levelBits) (nops tr : List (Inputs p.adcBits p.voltBits)) (k : Nat),
        (∀ i ∈ nops, i.IsNop) →
        runSteps nops.length (State.mk' p b (nops ++ tr) k) = .next (State.mk' p b tr (k + nops.length))

/-- TICKOFF (45_host_events.md R112): a tick while EN = 0 changes nothing, whatever the samples and STATE are. -/
def Obligations.TickoffChangesNothing : Prop :=
  ∀ s : State, exec .tickoff s = .next s ∧ (s.inputs.IsTick → s.block.en = false → s.event = .tickoff)

/-- EMIT_A (44_dispatch.md R100): OUT, SLOT, RES and STATE from wire A's slot; wire B and the hold condition are not looked
at. -/
def Obligations.EmitAEmitsWireASlot : Prop :=
  ∀ (s : State) (i : Idx), s.block.clsA s.inputs = some i →
    exec .emitA s = .next { s with block := { s.block with
      out := s.block.act[i.toNat]'(by have := i.isLt; omega)
      slot := 0#1 ++ i
      res := .matched
      fsm := .hold } }
    ∧ (s.inputs.IsTick → s.block.en = true → s.block.fsm = .idle → s.event = .emitA)

/-- EMIT_B (44_dispatch.md R101): wire B's slot, offset by 4, when wire A classifies to `None`. -/
def Obligations.EmitBEmitsWireBSlot : Prop :=
  ∀ (s : State) (j : Idx), s.block.clsB s.inputs = some j →
    exec .emitB s = .next { s with block := { s.block with
      out := s.block.act[4 + j.toNat]'(by have := j.isLt; omega)
      slot := 1#1 ++ j
      res := .matched
      fsm := .hold } }
    ∧ (s.inputs.IsTick → s.block.en = true → s.block.fsm = .idle → s.block.clsA s.inputs = none → s.event = .emitB)

/-- NOACT (44_dispatch.md R102): RES becomes NOT_MATCHED, everything else stays. -/
def Obligations.NoactRecordsNoMatch : Prop :=
  ∀ s : State,
    exec .noact s = .next { s with block := { s.block with res := .notMatched } }
    ∧ (s.inputs.IsTick → s.block.en = true → s.block.fsm = .idle → s.block.clsA s.inputs = none →
        s.block.clsB s.inputs = none → s.event = .noact)

/-- HOLD (43_pulse_emitter.md R92): a polling tick whose hold condition is true changes no register, whatever the
classifiers show. -/
def Obligations.HoldChangesNothing : Prop :=
  ∀ s : State,
    exec .hold s = .next s
    ∧ (s.inputs.IsTick → s.block.en = true → s.block.fsm = .hold → s.block.holdBit s.inputs = true → s.event = .hold)

/-- RELEASE (43_pulse_emitter.md R93): OUT becomes 0 and STATE becomes IDLE; nothing is dispatched on this tick. -/
def Obligations.ReleaseClearsTheOutput : Prop :=
  ∀ s : State,
    exec .release s = .next { s with block := { s.block with out := 0, fsm := .idle } }
    ∧ (s.inputs.IsTick → s.block.en = true → s.block.fsm = .hold → s.block.holdBit s.inputs = false →
        s.event = .release)

/-- THE MODEL'S OWN CHOICE (log entry 8): the meaning of an emission, applied where its wire matches no window, is refused
by name, and no select word leads a step there. -/
def Obligations.EmissionWithoutMatchIsRefused : Prop :=
  ∀ s : State,
    (s.block.clsA s.inputs = none →
      exec .emitA s = .refused (.noMatchToEmit .a) ∧ s.event ≠ .emitA)
    ∧ (s.block.clsB s.inputs = none →
      exec .emitB s = .refused (.noMatchToEmit .b) ∧ s.event ≠ .emitB)

/-! The machine as a whole. -/

/-- The transition table of STATE (10_state.md R32), row by row, and that EN = 0 with STATE = HOLD is not reached. -/
def Obligations.StateTransitionTable : Prop :=
  (∀ s : State,
    (s.inputs.rst = true → s.event = .reset ∧ ∃ b, StepsTo s b ∧ b.fsm = .idle)
    ∧ (s.inputs.rst = false → s.inputs.cfgWe = true →
        s.event = .cfgwr ∧ ∃ b, StepsTo s b ∧ b.fsm = s.block.fsm)
    ∧ (s.inputs.IsNop → s.event = .nop ∧ ∃ b, StepsTo s b ∧ b.fsm = s.block.fsm)
    ∧ (s.inputs.IsTick → s.block.en = false →
        s.event = .tickoff ∧ ∃ b, StepsTo s b ∧ b.fsm = s.block.fsm)
    ∧ (s.inputs.IsTick → s.block.en = true → s.block.fsm = .idle →
        (∀ i, s.block.clsA s.inputs = some i → s.event = .emitA ∧ ∃ b, StepsTo s b ∧ b.fsm = .hold)
        ∧ (∀ j, s.block.clsA s.inputs = none → s.block.clsB s.inputs = some j →
            s.event = .emitB ∧ ∃ b, StepsTo s b ∧ b.fsm = .hold)
        ∧ (s.block.clsA s.inputs = none → s.block.clsB s.inputs = none →
            s.event = .noact ∧ ∃ b, StepsTo s b ∧ b.fsm = .idle))
    ∧ (s.inputs.IsTick → s.block.en = true → s.block.fsm = .hold →
        (s.block.holdBit s.inputs = true → s.event = .hold ∧ ∃ b, StepsTo s b ∧ b.fsm = .hold)
        ∧ (s.block.holdBit s.inputs = false → s.event = .release ∧ ∃ b, StepsTo s b ∧ b.fsm = .idle)))
  ∧ ∀ s t : State, s.block.Inv → step s = .next t → ¬(t.block.en = false ∧ t.block.fsm = .hold)

/-- The invariants of 10_state.md R28: a RESET establishes them, every step keeps items 1, 2, 3 and 5, and once EN = 1 it
stays 1 and the record keeps its values until the next RESET (item 4). -/
def Obligations.InvariantsHoldAfterEveryEvent : Prop :=
  (∀ s t : State, s.block.Inv → step s = .next t → t.block.Inv)
    ∧ (∀ s : State, s.inputs.rst = true → ∃ b, StepsTo s b ∧ b.Inv)
    ∧ (∀ s : State, s.block.en = true → s.inputs.rst = false →
        ∃ b, StepsTo s b ∧ b.en = true ∧ SameRecord s.block b)

/-- The reset state has every register 0 (10_state.md R25) and meets the invariants, whatever the parameters. -/
def Obligations.ResetStateMeetsTheInvariants : Prop :=
  ∀ p : Params,
    (State.resetOf p).block = {
      en := false, relmode := .both, fsm := .idle, res := .noData, slot := 0, vref := 0, floor := 0, tol := 0,
      wiremap := 0, out := 0, trig := Vector.replicate 8 0, act := Vector.replicate 8 0 }
    ∧ (State.resetOf p).block.Inv ∧ State.reset.block.Inv

/-- From the reset state of any block, under any inputs and after any number of clocks, the run goes on and the invariants
of 10_state.md R28 hold: the consequence of InvariantsHoldAfterEveryEvent for runs. In the clocks past the end of the
listed inputs the ports show the free value of log entry 2. -/
def Obligations.RunsFromResetKeepTheInvariants : Prop :=
  ∀ (p : Params) (tr : List (Inputs p.adcBits p.voltBits)) (k n : Nat),
    ∃ b : Block p.voltBits p.levelBits,
      runSteps n (State.mk' p (Block.zero p.voltBits p.levelBits) tr k) = .next (State.mk' p b (tr.drop n) (k + n))
      ∧ b.Inv

/-- "The block is never stuck and never faults" (60_exceptions.md R128): every step of every state completes. -/
def Obligations.EveryStepCompletes : Prop :=
  ∀ s : State, ∃ b, StepsTo s b

/-- Who writes what: the "written by" column of 10_state.md R11. -/
def Obligations.RegistersAreWrittenOnlyByTheirEvents : Prop :=
  ∀ (s : State) (b : Block s.params.voltBits s.params.levelBits), StepsTo s b →
    (b.fsm ≠ s.block.fsm → s.event = .emitA ∨ s.event = .emitB ∨ s.event = .release ∨ s.event = .reset)
    ∧ (b.res ≠ s.block.res → s.event = .emitA ∨ s.event = .emitB ∨ s.event = .noact ∨ s.event = .reset)
    ∧ (b.slot ≠ s.block.slot → s.event = .emitA ∨ s.event = .emitB ∨ s.event = .reset)
    ∧ (b.out ≠ s.block.out → s.event = .emitA ∨ s.event = .emitB ∨ s.event = .release ∨ s.event = .reset)
    ∧ (b.en ≠ s.block.en → (s.event = .cfgwr ∧ b.en = true) ∨ s.event = .reset)
    ∧ (¬SameRecord s.block b → (s.event = .cfgwr ∧ s.block.en = false) ∨ s.event = .reset)

/-- What each event leaves in RES and SLOT (10_state.md R15). -/
def Obligations.FlagsAfterEachEvent : Prop :=
  ∀ (s : State) (b : Block s.params.voltBits s.params.levelBits), StepsTo s b →
    match s.event with
    | .reset => b.res = .noData ∧ b.slot = 0
    | .emitA => b.res = .matched ∧ ∃ i, s.block.clsA s.inputs = some i ∧ b.slot.toNat = i.toNat
    | .emitB => b.res = .matched ∧ ∃ j, s.block.clsB s.inputs = some j ∧ b.slot.toNat = 4 + j.toNat
    | .noact => b.res = .notMatched ∧ b.slot = s.block.slot
    | .hold | .release | .tickoff | .cfgwr | .nop => b.res = s.block.res ∧ b.slot = s.block.slot

/-- The two operating modes (60_exceptions.md R125, 10_state.md R16): run mode is entered by a CFGWR of 1 to CTRL bit 0
and left by RESET only. -/
def Obligations.RunModeIsEnteredByCtrlAndLeftByReset : Prop :=
  ∀ (s : State) (b : Block s.params.voltBits s.params.levelBits), StepsTo s b →
    (b.en = true ↔ s.inputs.rst = false ∧
      (s.block.en = true ∨
        (s.inputs.cfgWe = true ∧ s.inputs.cfgIdx = 0x00 ∧ s.inputs.cfgWdata.getLsbD 0 = true)))

/-! Voltages and comparison. -/

/-- VOLT is the exact linear scaling of 40_voltage_sampler.md R70, with its corner cases. -/
def Obligations.VoltIsExactLinearScaling : Prop :=
  ∀ (n vw : Nat) (raw raw' : BitVec n) (vref : BitVec vw), 1 ≤ n →
    1 ≤ fullScale n
    ∧ (volt raw vref).value = (raw.toNat : ℚ) * vref.toNat / ((2 : ℚ) ^ n - 1)
    ∧ (volt (0 : BitVec n) vref).value = 0
    ∧ (volt (BitVec.allOnes n) vref).value = vref.toNat
    ∧ (volt raw (0 : BitVec vw)).value = 0
    ∧ (n = 1 → (volt raw vref).value = (raw.toNat : ℚ) * vref.toNat)
    ∧ (raw.toNat ≤ raw'.toNat → (volt raw vref).value ≤ (volt raw' vref).value)
    ∧ (0 < vref.toNat → raw.toNat < raw'.toNat → (volt raw vref).value < (volt raw' vref).value)

/-- Every comparison is exact (40_voltage_sampler.md R72): cross-multiplication on integers decides the comparison of the
rational with the integer T, and the products fit in the widths the rule gives. -/
def Obligations.ComparisonsAreExact : Prop :=
  ∀ (n vw : Nat) (raw : BitVec n) (vref : BitVec vw), 1 ≤ n →
    (∀ T : Int,
      ((volt raw vref).lt T = true ↔ (volt raw vref).value < T)
      ∧ ((volt raw vref).le T = true ↔ (volt raw vref).value ≤ T)
      ∧ ((volt raw vref).gt T = true ↔ (volt raw vref).value > T)
      ∧ ((volt raw vref).ge T = true ↔ (volt raw vref).value ≥ T)
      ∧ ((volt raw vref).eq T = true ↔ (volt raw vref).value = T)
      ∧ ((volt raw vref).lt T = true ↔ (raw.toNat : Int) * vref.toNat < T * (2 ^ n - 1)))
    ∧ raw.toNat * vref.toNat ≤ (2 ^ n - 1) * (2 ^ vw - 1)
    ∧ raw.toNat * vref.toNat < 2 ^ (n + vw)
    ∧ (∀ T : BitVec vw, T.toNat * fullScale n < 2 ^ (n + vw))
    ∧ (∀ trig tol : BitVec vw, (trig.toNat + tol.toNat) * fullScale n < 2 ^ (n + vw + 1))

/-- The floor comparators (40_voltage_sampler.md R71): strict, and at the floor itself neither they nor the classifier's
first test hold. -/
def Obligations.FloorComparatorIsStrict : Prop :=
  ∀ (n vw lw : Nat) (b : Block vw lw) (i : Inputs n vw), 1 ≤ n →
    (b.blwA i = true ↔ (volt i.rawA b.vref).value < b.floor.toNat)
    ∧ (b.blwB i = true ↔ (volt i.rawB b.vref).value < b.floor.toNat)
    ∧ (b.floor = 0 → b.blwA i = false ∧ b.blwB i = false)
    ∧ (b.vref = 0 → b.blwA i = decide (0 < b.floor.toNat) ∧ b.blwB i = decide (0 < b.floor.toNat))
    ∧ ((volt i.rawA b.vref).value = b.floor.toNat →
        b.blwA i = false ∧ (b.va i).gt b.floor.toNat = false)
    ∧ ((volt i.rawB b.vref).value = b.floor.toNat →
        b.blwB i = false ∧ (b.vb i).gt b.floor.toNat = false)

/-! CLASSIFY. -/

/-- The closed form of CLASSIFY (41_threshold_classifier.md R76): the greatest k whose open window contains v, and `None`
when v is in no window. -/
def Obligations.ClassifyTakesTheGreatestWindow : Prop :=
  ∀ (v : Voltage) (f : Nat) (t : Idx → Nat),
    (∀ k : Idx, classify v f t = some k ↔ InWindow v f t k ∧ ∀ j : Idx, k < j → ¬InWindow v f t j)
    ∧ (classify v f t = none ↔ ∀ k : Idx, ¬InWindow v f t k)

/-- CLASSIFY on well-formed tables (41_threshold_classifier.md R78), items 1 to 5. -/
def Obligations.ClassifyOnWellFormedTables : Prop :=
  ∀ (v : Voltage) (f : Nat) (t : Idx → Nat), WFTable f t →
    (∀ k : Idx, windowLow f t k < t k)
    ∧ (∀ j k : Idx, j < k → t k ≤ windowLow f t j)
    ∧ (∀ j k : Idx, InWindow v f t j → InWindow v f t k → j = k)
    ∧ (v.le f = true → classify v f t = none)
    ∧ (v.ge (t 0) = true → classify v f t = none)
    ∧ (∀ k : Idx, v.eq (t k) = true → classify v f t = none)
    ∧ (v.gt f = true → v.lt (t 0) = true → v.eq (t 1) = false → v.eq (t 2) = false → v.eq (t 3) = false →
        ∃ k, classify v f t = some k ∧ v.lt (t k) = true ∧ ∀ j : Idx, v.lt (t j) = true → t k ≤ t j)
    ∧ (∀ k : Idx, classify v f t = some k ↔ v.gt (windowLow f t k) = true ∧ v.lt (t k) = true)

/-- Dead points and edges on the block (41_threshold_classifier.md R79, 70_reset_and_hazards.md R145): on a wire whose table
is well formed, a sample exactly at a trigger, or exactly at the floor, classifies to nothing; a sample above the trigger
of slot index k and below the next one classifies to k - 1, and above the trigger of index 0 to nothing. -/
def Obligations.DeadPointsClassifyToNothing : Prop :=
  ∀ (n vw lw : Nat) (b : Block vw lw) (i : Inputs n vw) (w : Wire) (product : Nat) (cls : Option Idx),
    WFTable b.floor.toNat (b.triggers w) →
    product = (match w with | .a => i.rawA.toNat | .b => i.rawB.toNat) * b.vref.toNat →
    cls = (match w with | .a => b.clsA i | .b => b.clsB i) →
      (∀ k : Idx, product = b.triggers w k * (2 ^ n - 1) → cls = none)
      ∧ (product = b.floor.toNat * (2 ^ n - 1) → cls = none)
      ∧ (∀ k : Idx, 0 < k → b.triggers w k * (2 ^ n - 1) < product →
          product < b.triggers w (k - 1) * (2 ^ n - 1) → cls = some (k - 1))
      ∧ (b.triggers w 0 * (2 ^ n - 1) < product → cls = none)

/-- CLASSIFY on every table, well formed or not (41_threshold_classifier.md R80), items 1 to 6. -/
def Obligations.ClassifyOnAnyTable : Prop :=
  (∀ (v : Voltage) (f : Nat) (t : Idx → Nat),
    ((∀ k : Idx, v.ge (t k) = true) → classify v f t = none)
    ∧ (f ≤ t 1 → f ≤ t 2 → f ≤ t 3 → v.le f = true → classify v f t = none)
    ∧ (t 0 < t 1 → t 1 < t 2 → t 2 < t 3 → f < t 3 →
        classify v f t = if v.gt f && v.lt (t 3) then some 3 else none)
    ∧ (∀ j k : Idx, j < k → InWindow v f t k → classify v f t ≠ some j)
    ∧ (∀ k : Idx, k < 3 → t (k + 1) = t k → ¬InWindow v f t k ∧ classify v f t ≠ some k)
    ∧ (f = 0 → (∀ k : Idx, t k = 0) → classify v f t = none))
  ∧ classify ⟨70, 1⟩ 100 (fun k => [2000, 1500, 500, 50].getD k.toNat 0) = some 2
  ∧ classify ⟨4, 1⟩ 0 (fun k => [20, 10, 3, 5].getD k.toNat 0) = some 3

/-- The source's example on its rising table and on the well-formed order (41_threshold_classifier.md R81), in units of
0.05: floor 0.1 is 2, the triggers 0.5, 1.0, 1.5, 2.0 are 10, 20, 30, 40, and 1.7, 0.05, 2.5 are 34, 1, 50. -/
def Obligations.RisingTableGivesSlotThree : Prop :=
  classify ⟨34, 1⟩ 2 (fun k => [10, 20, 30, 40].getD k.toNat 0) = some 3
    ∧ classify ⟨1, 1⟩ 2 (fun k => [10, 20, 30, 40].getD k.toNat 0) = none
    ∧ classify ⟨50, 1⟩ 2 (fun k => [10, 20, 30, 40].getD k.toNat 0) = none
    ∧ classify ⟨34, 1⟩ 2 (fun k => [40, 30, 20, 10].getD k.toNat 0) = some 0
    ∧ classify ⟨1, 1⟩ 2 (fun k => [40, 30, 20, 10].getD k.toNat 0) = none
    ∧ classify ⟨50, 1⟩ 2 (fun k => [40, 30, 20, 10].getD k.toNat 0) = none

/-! DECODE. -/

/-- The tolerance-window decoder (42_tolerance_decoder.md R85): the first slot, in rising order, whose closed window holds
the reading of the wire its WIREMAP bit names. -/
def Obligations.DecodeTakesTheFirstClosedWindow : Prop :=
  ∀ (n vw lw : Nat) (b : Block vw lw) (i : Inputs n vw) (inside : Slot → Prop),
    (∀ s : Slot, inside s ↔
      ((b.trig[s.toNat]'(s.isLt)).toNat - b.tol.toNat : Int) * (2 ^ n - 1)
          ≤ (if b.wiremap.getLsbD s.toNat = false then i.rawA.toNat else i.rawB.toNat) * b.vref.toNat
      ∧ ((if b.wiremap.getLsbD s.toNat = false then i.rawA.toNat else i.rawB.toNat) * b.vref.toNat : Int)
          ≤ ((b.trig[s.toNat]'(s.isLt)).toNat + b.tol.toNat) * (2 ^ n - 1)) →
    (∀ s : Slot, b.dec i = some s ↔ inside s ∧ ∀ r : Slot, r < s → ¬inside r)
    ∧ (b.dec i = none ↔ ∀ s : Slot, ¬inside s)

/-- Corner cases of the decoder (42_tolerance_decoder.md R86, items 2, 4 and 5): with TOL = 0 a decoded slot's reading
equals its trigger; after reset slot 0 for every input; with VREF = 0 the first slot with TRIG <= TOL; and a slot follows
its WIREMAP bit, so that a wire no bit names has no influence. -/
def Obligations.DecodeCornerCases : Prop :=
  ∀ (n vw lw : Nat) (b : Block vw lw) (i : Inputs n vw), 1 ≤ n →
    (∀ s : Slot, b.tol = 0 → b.dec i = some s →
      (if b.wiremap.getLsbD s.toNat then b.vb i else b.va i).eq (b.trigger s) = true)
    ∧ (Block.zero vw lw).dec i = some 0
    ∧ (b.vref = 0 →
        (∀ s : Slot, b.dec i = some s ↔
          b.trigger s ≤ b.tol.toNat ∧ ∀ r : Slot, r < s → b.tol.toNat < b.trigger r)
        ∧ (b.dec i = none ↔ ∀ s : Slot, b.tol.toNat < b.trigger s))
    ∧ (∀ x : BitVec n, b.wiremap = 0x00 → b.dec { i with rawB := x } = b.dec i)
    ∧ (∀ x : BitVec n, b.wiremap = 0xFF → b.dec { i with rawA := x } = b.dec i)

/-- The source's example with trigger 1.0 and tolerance 0.025 (42_tolerance_decoder.md R87), in units of 0.005: the window
is [195, 205]. -/
def Obligations.ToleranceExample : Prop :=
  inTolerance ⟨195, 1⟩ 200 5 = true ∧ inTolerance ⟨196, 1⟩ 200 5 = true ∧ inTolerance ⟨200, 1⟩ 200 5 = true
    ∧ inTolerance ⟨205, 1⟩ 200 5 = true ∧ inTolerance ⟨194, 1⟩ 200 5 = false ∧ inTolerance ⟨206, 1⟩ 200 5 = false

/-! HOLDCOND, encodings and outputs. -/

/-- The hold condition (43_pulse_emitter.md R90), and that FLOOR = 0 makes it false in every mode. -/
def Obligations.HoldConditionByMode : Prop :=
  ∀ (n vw lw : Nat) (b : Block vw lw) (i : Inputs n vw),
    (b.relmode = .both → b.holdBit i = (b.blwA i || b.blwB i))
    ∧ (b.relmode = .aOnly → b.holdBit i = b.blwA i)
    ∧ (b.relmode = .bOnly → b.holdBit i = b.blwB i)
    ∧ (b.floor = 0 → b.holdBit i = false)

/-- Slots and optional results (30_encoding.md R57, R59): `slot = 4 * wire + idx`, the encodings `enc` and `encd`, and the
values they never produce. -/
def Obligations.SlotAndOptionalEncodings : Prop :=
  (∀ i : Idx, (slotOf .a i).toNat = i.toNat ∧ (slotOf .b i).toNat = 4 + i.toNat)
    ∧ (∀ i : Idx, (enc (some i)).toNat = 4 + i.toNat) ∧ enc none = 0
    ∧ (∀ x : Option Idx, enc x ≠ 1 ∧ enc x ≠ 2 ∧ enc x ≠ 3)
    ∧ (∀ s : Slot, (encd (some s)).toNat = 8 + s.toNat) ∧ encd none = 0

/-- The outputs (10_state.md R29, R30, R31): registered outputs are copies of state, query outputs the encodings of the
functions of the current samples, `cfg_rdata` the read of `cfg_idx`; `dec_slot` is 0 when `dec_valid` is 0. -/
def Obligations.OutputsShowStateAndQueries : Prop :=
  ∀ (n vw lw : Nat) (b : Block vw lw) (i : Inputs n vw),
    (b.outputs i).outLevel = b.out
    ∧ ((b.outputs i).pulse = 1 ↔ b.fsm = .hold)
    ∧ (b.outputs i).res = b.res.bits
    ∧ (b.outputs i).slot = b.slot
    ∧ (b.outputs i).clsA = enc (classify (volt i.rawA b.vref) b.floor.toNat (b.triggers .a))
    ∧ (b.outputs i).clsB = enc (classify (volt i.rawB b.vref) b.floor.toNat (b.triggers .b))
    ∧ ((b.outputs i).blwA = 1 ↔ (volt i.rawA b.vref).lt b.floor.toNat = true)
    ∧ ((b.outputs i).blwB = 1 ↔ (volt i.rawB b.vref).lt b.floor.toNat = true)
    ∧ (∀ s : Slot, b.dec i = some s → (b.outputs i).decValid = 1 ∧ (b.outputs i).decSlot = s)
    ∧ (b.dec i = none → (b.outputs i).decValid = 0 ∧ (b.outputs i).decSlot = 0)
    ∧ (b.outputs i).cfgRdata = b.regRead i.cfgIdx

/-! The register index space. -/

/-- RegRead, index by index (20_memory.md R42). -/
def Obligations.RegReadMap : Prop :=
  ∀ (vw lw : Nat) (b : Block vw lw), 8 ≤ vw →
    (b.regRead 0x00).toNat = 2 * b.relmode.bits.toNat + b.en.toNat
    ∧ (b.regRead 0x01).toNat = 8 * b.slot.toNat + 2 * b.res.bits.toNat + b.fsm.bits.toNat
    ∧ b.regRead 0x02 = b.vref
    ∧ b.regRead 0x03 = b.floor
    ∧ b.regRead 0x04 = b.tol
    ∧ (b.regRead 0x05).toNat = b.wiremap.toNat
    ∧ (lw ≤ vw → (b.regRead 0x06).toNat = b.out.toNat)
    ∧ (∀ k : Slot, b.regRead (0x08 + k.setWidth 5) = b.trig[k.toNat]'(k.isLt))
    ∧ (∀ k : Slot, lw ≤ vw → (b.regRead (0x10 + k.setWidth 5)).toNat = (b.act[k.toNat]'(k.isLt)).toNat)
    ∧ b.regRead 0x07 = 0
    ∧ (∀ idx : RegIndex, 0x18 ≤ idx → b.regRead idx = 0)

/-- What a read gives after a write in configuration mode: the data truncated to the register's width and zero-extended
(20_memory.md R41, 45_host_events.md R110); STATUS and OUT read as before and reserved indices as 0. -/
def Obligations.WriteThenReadTruncates : Prop :=
  ∀ s : State, s.params.wf = true → s.block.en = false →
    ∃ b, exec .cfgwr s = .next { s with block := b }
      ∧ (s.inputs.cfgIdx = 0x00 → s.inputs.cfgWdata.extractLsb' 1 2 ≠ 3 →
          (b.regRead 0x00).toNat = s.inputs.cfgWdata.toNat % 8)
      ∧ (s.inputs.cfgIdx = 0x02 ∨ s.inputs.cfgIdx = 0x03 ∨ s.inputs.cfgIdx = 0x04
          ∨ (0x08 ≤ s.inputs.cfgIdx ∧ s.inputs.cfgIdx ≤ 0x0F) →
          b.regRead s.inputs.cfgIdx = s.inputs.cfgWdata)
      ∧ (s.inputs.cfgIdx = 0x05 → (b.regRead 0x05).toNat = s.inputs.cfgWdata.toNat % 2 ^ 8)
      ∧ (0x10 ≤ s.inputs.cfgIdx → s.inputs.cfgIdx ≤ 0x17 →
          (b.regRead s.inputs.cfgIdx).toNat = s.inputs.cfgWdata.toNat % 2 ^ s.params.levelBits)
      ∧ (s.inputs.cfgIdx = 0x01 ∨ s.inputs.cfgIdx = 0x06 →
          b.regRead s.inputs.cfgIdx = s.block.regRead s.inputs.cfgIdx)
      ∧ (s.inputs.cfgIdx = 0x07 ∨ 0x18 ≤ s.inputs.cfgIdx → b.regRead s.inputs.cfgIdx = 0)

/-- "One CFGWR writes one whole register" (20_memory.md R44): every other index reads as before, in both modes. -/
def Obligations.WriteLeavesOtherIndices : Prop :=
  ∀ s : State, ∃ b, exec .cfgwr s = .next { s with block := b }
    ∧ ∀ j : RegIndex, j ≠ s.inputs.cfgIdx → b.regRead j = s.block.regRead j

/-- Silent drops (70_reset_and_hazards.md R146): a write while EN = 1, a write to STATUS, OUT or a reserved index, a RELMODE
value of 3, and a tick in the same clock as a CFGWR. -/
def Obligations.SilentDrops : Prop :=
  ∀ s : State, s.inputs.rst = false → s.inputs.cfgWe = true →
    (s.block.en = true → StepsTo s s.block)
    ∧ (s.inputs.cfgIdx = 0x01 ∨ s.inputs.cfgIdx = 0x06 ∨ s.inputs.cfgIdx = 0x07 ∨ 0x18 ≤ s.inputs.cfgIdx →
        StepsTo s s.block)
    ∧ (s.inputs.cfgIdx = 0x00 → s.inputs.cfgWdata.extractLsb' 1 2 = 3 →
        StepsTo s { s.block with en := s.block.en || s.inputs.cfgWdata.getLsbD 0 })
    ∧ (s.inputs.tick = true → s.event = .cfgwr
        ∧ ∃ b, StepsTo s b ∧ b.fsm = s.block.fsm ∧ b.out = s.block.out ∧ b.res = s.block.res
          ∧ b.slot = s.block.slot)

/-- The enabling write carries the release mode (70_reset_and_hazards.md R147). -/
def Obligations.EnablingWriteCarriesTheMode : Prop :=
  ∀ (p : Params) (b : Block p.voltBits p.levelBits) (tr : List (Inputs p.adcBits p.voltBits)) (k : Nat),
    p.wf = true → b.en = false →
    runSteps 2 (State.mk' p b
        ((TraceLine.cfgwr 0 2).inputs p.adcBits p.voltBits :: (TraceLine.cfgwr 0 1).inputs p.adcBits p.voltBits :: tr) k)
      = .next (State.mk' p { b with en := true, relmode := .both } tr (k + 2))
    ∧ ∀ m : RelMode, ∀ l, (TraceItem.enableMode m).expand = [l] →
        runSteps 1 (State.mk' p b (l.inputs p.adcBits p.voltBits :: tr) k)
          = .next (State.mk' p { b with en := true, relmode := m } tr (k + 1))

/-! The dispatch cycle and the pulse. -/

/-- The dispatch cycle as one function (44_dispatch.md R103). -/
def Obligations.DispatchCycleAsOneFunction : Prop :=
  ∀ s : State, s.inputs.IsTick → s.block.en = true → s.block.fsm = .idle →
    StepsTo s
      (match classify (volt s.inputs.rawA s.block.vref) s.block.floor.toNat
          (fun k => (s.block.trig[k.toNat]'(by have := k.isLt; omega)).toNat) with
      | some i => { s.block with
          out := s.block.act[i.toNat]'(by have := i.isLt; omega)
          slot := i.setWidth 3, res := .matched, fsm := .hold }
      | none =>
        match classify (volt s.inputs.rawB s.block.vref) s.block.floor.toNat
            (fun k => (s.block.trig[4 + k.toNat]'(by have := k.isLt; omega)).toNat) with
        | some j => { s.block with
            out := s.block.act[4 + j.toNat]'(by have := j.isLt; omega)
            slot := 4 + j.setWidth 3, res := .matched, fsm := .hold }
        | none => { s.block with res := .notMatched })

/-- Where an emission comes from (44_dispatch.md R104, items 1, 2, 3 and 5). -/
def Obligations.EmittedSlotComesFromItsWire : Prop :=
  ∀ (s : State) (b : Block s.params.voltBits s.params.levelBits),
    s.inputs.IsTick → s.block.en = true → s.block.fsm = .idle → StepsTo s b →
      (b.fsm = .hold ↔ s.block.clsA s.inputs ≠ none ∨ s.block.clsB s.inputs ≠ none)
      ∧ (b.res = .matched ↔ b.fsm = .hold)
      ∧ (b.fsm = .hold → (b.slot < 4 ↔ s.block.clsA s.inputs ≠ none))
      ∧ (b.fsm = .hold → b.slot < 4 →
          InWindow (s.block.va s.inputs) s.block.floor.toNat (s.block.triggers .a) (b.slot.extractLsb' 0 2))
      ∧ (b.fsm = .hold → ¬b.slot < 4 → s.block.clsA s.inputs = none
          ∧ InWindow (s.block.vb s.inputs) s.block.floor.toNat (s.block.triggers .b) (b.slot.extractLsb' 0 2))
      ∧ (b.fsm = .hold → b.out = s.block.act[b.slot.toNat]'(b.slot.isLt))

/-- Where a pulse begins and ends (43_pulse_emitter.md R94 item 1, 70_reset_and_hazards.md R142): it starts at EMIT_A or
EMIT_B, ends at RELEASE or RESET only, and between them OUT, SLOT and RES do not change. -/
def Obligations.PulseStartsAtEmitAndEndsAtRelease : Prop :=
  ∀ (s : State) (b : Block s.params.voltBits s.params.levelBits), StepsTo s b →
    (s.block.fsm = .idle → (b.fsm = .hold ↔ s.event = .emitA ∨ s.event = .emitB))
    ∧ (s.block.fsm = .hold → (b.fsm = .idle ↔ s.event = .release ∨ s.event = .reset))
    ∧ (s.block.fsm = .hold → b.fsm = .hold → b.out = s.block.out ∧ b.slot = s.block.slot ∧ b.res = s.block.res)

/-- A pulse of any length, started by EMIT_A or by EMIT_B (43_pulse_emitter.md R94 items 1, 2, 3 and 6): the emission of slot
`s`, then any clocks none of which resets and whose polling ticks all keep holding (NOPs and configuration writes may lie
between), then a tick that does not: the output is ACT[SLOT] until the last, and 0 after it. -/
def Obligations.PulseOfAnyLength : Prop :=
  ∀ (p : Params) (b : Block p.voltBits p.levelBits) (s : Slot) (first last : Inputs p.adcBits p.voltBits)
    (polls tr : List (Inputs p.adcBits p.voltBits)) (k : Nat),
    b.en = true → b.fsm = .idle → first.IsTick → b.Emits first s →
    (∀ x ∈ polls, x.rst = false ∧ (x.IsTick → b.holdBit x = true)) →
    last.IsTick → b.holdBit last = false →
      (∀ m, m ≤ polls.length →
        runSteps (m + 1) (State.mk' p b (first :: (polls ++ last :: tr)) k)
          = .next (State.mk' p { b with out := b.act[s.toNat]'(s.isLt), slot := s, res := .matched, fsm := .hold }
              (polls.drop m ++ last :: tr) (k + (m + 1))))
      ∧ runSteps (polls.length + 2) (State.mk' p b (first :: (polls ++ last :: tr)) k)
          = .next (State.mk' p { b with out := 0, slot := s, res := .matched, fsm := .idle } tr
              (k + (polls.length + 2)))

/-- The release in mode BOTH (43_pulse_emitter.md R94 item 4): exactly at a polling tick where both voltages are at or
above the floor. -/
def Obligations.ReleaseNeedsBothWires : Prop :=
  ∀ s : State, s.params.wf = true → s.inputs.IsTick → s.block.en = true → s.block.fsm = .hold →
    s.block.relmode = .both →
    (s.event = .release ↔
      (s.block.floor.toNat : ℚ) ≤ (volt s.inputs.rawA s.block.vref).value
      ∧ (s.block.floor.toNat : ℚ) ≤ (volt s.inputs.rawB s.block.vref).value)

/-- The unwatched wire has no influence on a hold (43_pulse_emitter.md R94 item 5). -/
def Obligations.UnwatchedWireHasNoInfluence : Prop :=
  ∀ (p : Params) (b b' : Block p.voltBits p.levelBits) (i : Inputs p.adcBits p.voltBits) (x : BitVec p.adcBits)
    (tr : List (Inputs p.adcBits p.voltBits)) (k : Nat),
    b.fsm = .hold → step (State.mk' p b (i :: tr) k) = .next (State.mk' p b' tr (k + 1)) →
      (b.relmode = .aOnly → step (State.mk' p b ({ i with rawB := x } :: tr) k) = .next (State.mk' p b' tr (k + 1)))
      ∧ (b.relmode = .bOnly → step (State.mk' p b ({ i with rawA := x } :: tr) k) = .next (State.mk' p b' tr (k + 1)))

/-- Several pulses per press (70_reset_and_hazards.md R143, 44_dispatch.md R104 item 4), for a press on either wire: a list
of ticks, whose samples may differ from tick to tick, of which every dispatching one (the even ones, counted from 0) emits
slot `s`, and every polling one (the odd ones) has both wires at or above the floor, or any other reason for its hold
condition to be false. The output alternates between ACT[s] and 0 at successive ticks; `m` is how many have been taken. -/
def Obligations.PressAboveTheFloorAlternates : Prop :=
  ∀ (p : Params) (b : Block p.voltBits p.levelBits) (s : Slot) (press tr : List (Inputs p.adcBits p.voltBits)) (k : Nat),
    b.en = true → b.fsm = .idle →
    (∀ (m : Nat) (h : m < press.length),
      press[m].IsTick
      ∧ (m % 2 = 0 → b.Emits press[m] s)
      ∧ (m % 2 = 1 → (b.blwA press[m] = false ∧ b.blwB press[m] = false) ∨ b.holdBit press[m] = false)) →
    ∀ m, m < press.length →
      runSteps (m + 1) (State.mk' p b (press ++ tr) k)
        = .next (State.mk' p
            (if m % 2 = 0 then
              { b with out := b.act[s.toNat]'(s.isLt), slot := s, res := .matched, fsm := .hold }
            else { b with out := 0, slot := s, res := .matched, fsm := .idle })
            (press.drop (m + 1) ++ tr) (k + (m + 1)))

/-! What nothing depends on. -/

/-- No hidden state (10_state.md R27, 20_memory.md R46): what a clock edge leaves in the registers depends on the registers
and on the inputs of that clock, and on nothing before or after. -/
def Obligations.NoHiddenState : Prop :=
  ∀ (p : Params) (b : Block p.voltBits p.levelBits) (i : Inputs p.adcBits p.voltBits),
    ∃ b' : Block p.voltBits p.levelBits, ∀ (tr : List (Inputs p.adcBits p.voltBits)) (k : Nat),
      step (State.mk' p b (i :: tr) k) = .next (State.mk' p b' tr (k + 1))

/-- "No instruction reads the flags" (10_state.md R15): other values of RES and SLOT change nothing but RES and SLOT. -/
def Obligations.FlagsAreReadByNoEvent : Prop :=
  ∀ (p : Params) (b b' : Block p.voltBits p.levelBits) (i : Inputs p.adcBits p.voltBits)
    (tr : List (Inputs p.adcBits p.voltBits)) (k : Nat) (r : Res) (sl : Slot),
    step (State.mk' p b (i :: tr) k) = .next (State.mk' p b' tr (k + 1)) →
    ∃ (r' : Res) (sl' : Slot),
      step (State.mk' p { b with res := r, slot := sl } (i :: tr) k)
        = .next (State.mk' p { b' with res := r', slot := sl' } tr (k + 1))

/-- Dispatch and polling read neither WIREMAP nor TOL (70_reset_and_hazards.md R144, 10_state.md R20, R21): on a tick other
values of them change nothing but themselves. -/
def Obligations.TicksIgnoreWiremapAndTolerance : Prop :=
  ∀ (p : Params) (b b' : Block p.voltBits p.levelBits) (i : Inputs p.adcBits p.voltBits)
    (tr : List (Inputs p.adcBits p.voltBits)) (k : Nat) (w : BitVec 8) (t : BitVec p.voltBits),
    i.IsTick → step (State.mk' p b (i :: tr) k) = .next (State.mk' p b' tr (k + 1)) →
      step (State.mk' p { b with wiremap := w, tol := t } (i :: tr) k)
        = .next (State.mk' p { b' with wiremap := w, tol := t } tr (k + 1))

/-- WIREMAP agrees with the positions the dispatch cycle goes by exactly when it is 0xF0 (70_reset_and_hazards.md R144,
R140). -/
def Obligations.WiremapAgreesWithDispatchOnlyAtF0 : Prop :=
  ∀ w : BitVec 8, w = 0xF0 ↔
    ∀ (wire : Wire) (i : Idx), wireOfMap w (slotOf wire i) = wire

/-- No rule depends on POLL_INTERVAL (60_exceptions.md R126, 70_reset_and_hazards.md R150): a block with another tick
period takes the same step. -/
def Obligations.PollIntervalIsReadByNothing : Prop :=
  ∀ (p : Params) (q : Nat) (b b' : Block p.voltBits p.levelBits) (tr : List (Inputs p.adcBits p.voltBits)) (k : Nat),
    step (State.mk' p b tr k) = .next (State.mk' p b' tr.tail (k + 1)) →
      step (State.mk' { p with pollInterval := q } b tr k)
        = .next (State.mk' { p with pollInterval := q } b' tr.tail (k + 1))

/-! How a word and a trace reach the machine. -/

/-- `withFetchWord` shows the select word it is given, in a block of legal parameters: every one of the 256 words of
30_encoding.md R55 is the select word of some state (the construction is the model's own, log entry 10). -/
def Obligations.FetchWordIsShown : Prop :=
  ∀ (s : State) (S : SelectWord), s.params.wf = true →
    (s.withFetchWord 8 S.toNat).selectWord = S ∧ (s.withFetchWord 8 S.toNat).event = decode S
      ∧ ∃ b, step (s.withFetchWord 8 S.toNat)
          = .next { params := s.params, block := b, trace := s.trace, edge := s.edge + 1 }

/-- The trace notation (30_encoding.md R61): each line that fits its ports drives its event with the operands it names. That
a trace with an item that does not fit is refused, the last clause, is the model's own choice (log entry 11): R61 does not
say what a number too wide for its port means. -/
def Obligations.TraceLinesDriveTheirEvents : Prop :=
  ∀ (p : Params) (b : Block p.voltBits p.levelBits) (tr : List (Inputs p.adcBits p.voltBits)) (k : Nat) (l : TraceLine),
    l.wf p = true →
    (∀ s : State, s = State.mk' p b (l.inputs p.adcBits p.voltBits :: tr) k →
      match l with
      | .reset => s.event = .reset
      | .cfgwr idx v => s.event = .cfgwr ∧ s.inputs.cfgIdx.toNat = idx ∧ s.inputs.cfgWdata.toNat = v
      | .nop => s.event = .nop
      | .tick x y => s.event ≠ .reset ∧ s.event ≠ .cfgwr ∧ s.event ≠ .nop
          ∧ s.inputs.rawA.toNat = x ∧ s.inputs.rawB.toNat = y)
    ∧ assemble p [.line l] = some [l.inputs p.adcBits p.voltBits]
    ∧ ∀ items : List TraceItem, (∃ it ∈ items, it.wf p = false) → assemble p items = none

/-- The text of a trace (30_encoding.md R61): a comment changes nothing, the name of a register is read as its index, and so
is the index in decimal digits; a CFGWR line that names the register gives the CFGWR of that index. -/
def Obligations.TraceTextReadsNamesAndComments : Prop :=
  (∀ (k : Nat) (l c : List Char) (ls : List (List Char)),
      itemsOfLines k ((l ++ ';' :: c) :: ls) = itemsOfLines k (l :: ls))
    ∧ (∀ r : Reg, registerNamed r.name = some r ∧ indexOperand r.name = some r.index.toNat)
    ∧ (∀ idx : RegIndex, indexOperand (Nat.toDigits 10 idx.toNat) = some idx.toNat)
    ∧ (∀ (r : Reg) (w : List Char) (v : Nat), numeral w = some v →
        itemOf "CFGWR".toList [r.name, w] = some (.line (.cfgwr r.index.toNat v)))
end

