-- ==== Sys2Proof/Laws/Classifier.lean ====
section
/-! SUPPORT. The comparisons of a voltage as facts about integers, and the classifier and the decoder unrolled once. -/

namespace Sys2Proof.Machine

variable (v : Voltage) (T : Int)

theorem Voltage.lt_iff : v.lt T = true ↔ (v.num : Int) < T * v.den := by simp [Voltage.lt]
theorem Voltage.le_iff : v.le T = true ↔ (v.num : Int) ≤ T * v.den := by simp [Voltage.le]
theorem Voltage.gt_iff : v.gt T = true ↔ T * v.den < (v.num : Int) := by simp [Voltage.gt]
theorem Voltage.ge_iff : v.ge T = true ↔ T * v.den ≤ (v.num : Int) := by simp [Voltage.ge]
theorem Voltage.eq_iff : v.eq T = true ↔ (v.num : Int) = T * v.den := by simp [Voltage.eq]

/-- The scan of CLASSIFY unrolled, each test a comparison of integers (41_threshold_classifier.md R75). -/
theorem classify_unrolled (f : Nat) (t : Idx → Nat) :
    classify v f t =
      if (f : Int) * v.den < v.num ∧ (v.num : Int) < t 3 * v.den then some 3
      else if (t 3 : Int) * v.den < v.num ∧ (v.num : Int) < t 2 * v.den then some 2
      else if (t 2 : Int) * v.den < v.num ∧ (v.num : Int) < t 1 * v.den then some 1
      else if (t 1 : Int) * v.den < v.num ∧ (v.num : Int) < t 0 * v.den then some 0
      else none := by
  simp only [classify, scanWindows, Bool.and_eq_true, Voltage.gt_iff, Voltage.lt_iff]

/-- Membership in a window as a comparison of integers. -/
theorem inWindow_iff (f : Nat) (t : Idx → Nat) (k : Idx) :
    InWindow v f t k ↔ (windowLow f t k : Int) * v.den < v.num ∧ (v.num : Int) < t k * v.den := by
  simp only [InWindow, Voltage.gt_iff, Voltage.lt_iff]

@[simp] theorem windowLow_zero (f : Nat) (t : Idx → Nat) : windowLow f t 0 = t 1 := rfl
@[simp] theorem windowLow_one (f : Nat) (t : Idx → Nat) : windowLow f t 1 = t 2 := rfl
@[simp] theorem windowLow_two (f : Nat) (t : Idx → Nat) : windowLow f t 2 = t 3 := rfl
@[simp] theorem windowLow_three (f : Nat) (t : Idx → Nat) : windowLow f t 3 = f := rfl

/-- A statement about every slot index is four statements. -/
theorem forall_idx {P : Idx → Prop} : (∀ k, P k) ↔ P 0 ∧ P 1 ∧ P 2 ∧ P 3 := by
  refine ⟨fun h => ⟨h 0, h 1, h 2, h 3⟩, ?_⟩
  rintro ⟨h0, h1, h2, h3⟩ k
  have hk : k = 0 ∨ k = 1 ∨ k = 2 ∨ k = 3 := by revert k; decide
  rcases hk with rfl | rfl | rfl | rfl <;> assumption

/-- Raising a bound keeps what lies below it. -/
theorem scaled_le {a b : Nat} (h : a ≤ b) : (a : Int) * v.den ≤ b * v.den := by
  exact_mod_cast Nat.mul_le_mul_right v.den h

/-- The closed window of the tolerance policy as a comparison of integers (42_tolerance_decoder.md R85). -/
theorem inTolerance_iff (r : Voltage) (trig tol : Nat) :
    inTolerance r trig tol = true ↔
      ((trig : Int) - tol) * r.den ≤ r.num ∧ (r.num : Int) ≤ ((trig : Int) + tol) * r.den := by
  simp only [inTolerance, Bool.and_eq_true, Voltage.ge_iff, Voltage.le_iff]

/-- The first element of a strictly rising list that meets a test is the least one that does. -/
theorem find?_eq_some_iff_least (P : Slot → Bool) {l : List Slot} (hl : l.Pairwise (· < ·)) (s : Slot) :
    l.find? P = some s ↔ s ∈ l ∧ P s = true ∧ ∀ r ∈ l, r < s → ¬P r = true := by
  induction l with
  | nil => simp
  | cons a rest ih =>
    obtain ⟨ha, hr⟩ := List.pairwise_cons.mp hl
    by_cases hp : P a = true
    · simp only [List.find?_cons_of_pos hp, Option.some.injEq, List.mem_cons]
      constructor
      · rintro rfl
        refine ⟨.inl rfl, hp, fun r hm hlt => ?_⟩
        rcases hm with rfl | hm
        · exact absurd hlt (BitVec.lt_irrefl r)
        · exact absurd (BitVec.lt_trans hlt (ha r hm)) (BitVec.lt_irrefl r)
      · rintro ⟨rfl | hm, _, hmin⟩
        · rfl
        · exact absurd hp (hmin a (.inl rfl) (ha s hm))
    · rw [List.find?_cons_of_neg hp, ih hr]
      constructor
      · rintro ⟨hm, h, hmin⟩
        refine ⟨.tail a hm, h, fun r hr' hlt => ?_⟩
        rcases List.mem_cons.mp hr' with rfl | hr'
        · exact hp
        · exact hmin r hr' hlt
      · rintro ⟨hm, h, hmin⟩
        rcases List.mem_cons.mp hm with rfl | hm
        · exact absurd h hp
        · exact ⟨hm, h, fun r hr' => hmin r (.tail a hr')⟩

/-- Every slot is scanned, in rising order. -/
theorem allSlots_rising : allSlots.Pairwise (· < ·) := by decide

theorem mem_allSlots : ∀ s : Slot, s ∈ allSlots := by decide

end Sys2Proof.Machine
end

