-- ==== Sys2Proof/Laws/State.lean ====
section
/-! SUPPORT. One lemma per field per update, true by rfl, so that no later proof unfolds a record update. -/

namespace Sys2Proof.Machine

/-! Updates of the machine's state: the registers, and the clock edge. -/

section State

variable (s : State) (b : Block s.params.voltBits s.params.levelBits)

@[simp] theorem State.withBlock_params : (s.withBlock b).params = s.params := rfl
@[simp] theorem State.withBlock_block : (s.withBlock b).block = b := rfl
@[simp] theorem State.withBlock_trace : (s.withBlock b).trace = s.trace := rfl
@[simp] theorem State.withBlock_edge : (s.withBlock b).edge = s.edge := rfl

@[simp] theorem State.clocked_params : (s.clocked b).params = s.params := rfl
@[simp] theorem State.clocked_block : (s.clocked b).block = b := rfl
@[simp] theorem State.clocked_trace : (s.clocked b).trace = s.trace.tail := rfl
@[simp] theorem State.clocked_edge : (s.clocked b).edge = s.edge + 1 := rfl

@[simp] theorem State.advance_params : s.advance.params = s.params := rfl
@[simp] theorem State.advance_block : s.advance.block = s.block := rfl
@[simp] theorem State.advance_trace : s.advance.trace = s.trace.tail := rfl
@[simp] theorem State.advance_edge : s.advance.edge = s.edge + 1 := rfl

@[simp] theorem State.advance_withBlock : (s.withBlock b).advance = s.clocked b := rfl
@[simp] theorem State.advance_self : s.advance = s.clocked s.block := rfl
@[simp] theorem State.withBlock_self : s.withBlock s.block = s := rfl
@[simp] theorem State.withBlock_inputs : (s.withBlock b).inputs = s.inputs := rfl

variable (p : Params) (c c' : Block p.voltBits p.levelBits) (i : Inputs p.adcBits p.voltBits)
  (tr : List (Inputs p.adcBits p.voltBits)) (k : Nat)

@[simp] theorem State.mk'_inputs_cons : (State.mk' p c (i :: tr) k).inputs = i := rfl
@[simp] theorem State.clocked_mk' : (State.mk' p c tr k).clocked c' = State.mk' p c' tr.tail (k + 1) := rfl

end State

/-! Updates of the registers. -/

section Block

variable {vw lw : Nat} (b : Block vw lw) (x : Slot) (d : BitVec vw)

@[simp] theorem Block.emit_en : (b.emit x).en = b.en := rfl
@[simp] theorem Block.emit_relmode : (b.emit x).relmode = b.relmode := rfl
@[simp] theorem Block.emit_fsm : (b.emit x).fsm = .hold := rfl
@[simp] theorem Block.emit_res : (b.emit x).res = .matched := rfl
@[simp] theorem Block.emit_slot : (b.emit x).slot = x := rfl
@[simp] theorem Block.emit_vref : (b.emit x).vref = b.vref := rfl
@[simp] theorem Block.emit_floor : (b.emit x).floor = b.floor := rfl
@[simp] theorem Block.emit_tol : (b.emit x).tol = b.tol := rfl
@[simp] theorem Block.emit_wiremap : (b.emit x).wiremap = b.wiremap := rfl
@[simp] theorem Block.emit_out : (b.emit x).out = readSlot b.act x := rfl
@[simp] theorem Block.emit_trig : (b.emit x).trig = b.trig := rfl
@[simp] theorem Block.emit_act : (b.emit x).act = b.act := rfl

@[simp] theorem Block.noMatch_en : (b.noMatch).en = b.en := rfl
@[simp] theorem Block.noMatch_relmode : (b.noMatch).relmode = b.relmode := rfl
@[simp] theorem Block.noMatch_fsm : (b.noMatch).fsm = b.fsm := rfl
@[simp] theorem Block.noMatch_res : (b.noMatch).res = .notMatched := rfl
@[simp] theorem Block.noMatch_slot : (b.noMatch).slot = b.slot := rfl
@[simp] theorem Block.noMatch_vref : (b.noMatch).vref = b.vref := rfl
@[simp] theorem Block.noMatch_floor : (b.noMatch).floor = b.floor := rfl
@[simp] theorem Block.noMatch_tol : (b.noMatch).tol = b.tol := rfl
@[simp] theorem Block.noMatch_wiremap : (b.noMatch).wiremap = b.wiremap := rfl
@[simp] theorem Block.noMatch_out : (b.noMatch).out = b.out := rfl
@[simp] theorem Block.noMatch_trig : (b.noMatch).trig = b.trig := rfl
@[simp] theorem Block.noMatch_act : (b.noMatch).act = b.act := rfl

@[simp] theorem Block.release_en : (b.release).en = b.en := rfl
@[simp] theorem Block.release_relmode : (b.release).relmode = b.relmode := rfl
@[simp] theorem Block.release_fsm : (b.release).fsm = .idle := rfl
@[simp] theorem Block.release_res : (b.release).res = b.res := rfl
@[simp] theorem Block.release_slot : (b.release).slot = b.slot := rfl
@[simp] theorem Block.release_vref : (b.release).vref = b.vref := rfl
@[simp] theorem Block.release_floor : (b.release).floor = b.floor := rfl
@[simp] theorem Block.release_tol : (b.release).tol = b.tol := rfl
@[simp] theorem Block.release_wiremap : (b.release).wiremap = b.wiremap := rfl
@[simp] theorem Block.release_out : (b.release).out = 0 := rfl
@[simp] theorem Block.release_trig : (b.release).trig = b.trig := rfl
@[simp] theorem Block.release_act : (b.release).act = b.act := rfl

@[simp] theorem Block.cleared_en : (b.cleared).en = false := rfl
@[simp] theorem Block.cleared_relmode : (b.cleared).relmode = .both := rfl
@[simp] theorem Block.cleared_fsm : (b.cleared).fsm = .idle := rfl
@[simp] theorem Block.cleared_res : (b.cleared).res = .noData := rfl
@[simp] theorem Block.cleared_slot : (b.cleared).slot = 0 := rfl
@[simp] theorem Block.cleared_vref : (b.cleared).vref = 0 := rfl
@[simp] theorem Block.cleared_floor : (b.cleared).floor = 0 := rfl
@[simp] theorem Block.cleared_tol : (b.cleared).tol = 0 := rfl
@[simp] theorem Block.cleared_wiremap : (b.cleared).wiremap = 0 := rfl
@[simp] theorem Block.cleared_out : (b.cleared).out = 0 := rfl
@[simp] theorem Block.cleared_trig : (b.cleared).trig = Vector.replicate 8 0 := rfl
@[simp] theorem Block.cleared_act : (b.cleared).act = Vector.replicate 8 0 := rfl

@[simp] theorem Block.writeCtrl_fsm : (b.writeCtrl d).fsm = b.fsm := rfl
@[simp] theorem Block.writeCtrl_res : (b.writeCtrl d).res = b.res := rfl
@[simp] theorem Block.writeCtrl_slot : (b.writeCtrl d).slot = b.slot := rfl
@[simp] theorem Block.writeCtrl_vref : (b.writeCtrl d).vref = b.vref := rfl
@[simp] theorem Block.writeCtrl_floor : (b.writeCtrl d).floor = b.floor := rfl
@[simp] theorem Block.writeCtrl_tol : (b.writeCtrl d).tol = b.tol := rfl
@[simp] theorem Block.writeCtrl_wiremap : (b.writeCtrl d).wiremap = b.wiremap := rfl
@[simp] theorem Block.writeCtrl_out : (b.writeCtrl d).out = b.out := rfl
@[simp] theorem Block.writeCtrl_trig : (b.writeCtrl d).trig = b.trig := rfl
@[simp] theorem Block.writeCtrl_act : (b.writeCtrl d).act = b.act := rfl
@[simp] theorem Block.writeCtrl_en : (b.writeCtrl d).en = (b.en || d.getLsbD 0) := rfl

end Block

/-! The register files. -/

section Files

variable {α : Type} (f : Vector α 8) (s r : Slot) (x : α)

@[simp] theorem readSlot_writeSlot_self : readSlot (writeSlot f s x) s = x := by
  simp [readSlot, writeSlot]

theorem readSlot_writeSlot_ne (h : r ≠ s) : readSlot (writeSlot f s x) r = readSlot f r := by
  have h' : s.toNat ≠ r.toNat := fun e => h (BitVec.eq_of_toNat_eq e.symm)
  simp [readSlot, writeSlot, Vector.getElem_set_ne, h']

end Files

end Sys2Proof.Machine
end

