-- ==== Sys2Proof/Laws/Ops.lean ====
section
/-! SUPPORT. What each shared operation can do, said once: the register write, the classifier's scan, `exec` and `step`. -/

namespace Sys2Proof.Machine

variable {vw lw : Nat}

/-! The register write. -/

/-- A configuration write touches neither STATE, OUT, RES nor SLOT (45_host_events.md R110). -/
theorem Block.regWrite_sequencing (b : Block vw lw) (idx : RegIndex) (d : BitVec vw) :
    (b.regWrite idx d).fsm = b.fsm ∧ (b.regWrite idx d).res = b.res ∧ (b.regWrite idx d).slot = b.slot
      ∧ (b.regWrite idx d).out = b.out := by
  unfold Block.regWrite
  split
  · exact ⟨rfl, rfl, rfl, rfl⟩
  · split
    · exact ⟨rfl, rfl, rfl, rfl⟩
    · unfold Block.writeUnlocked
      split <;> exact ⟨rfl, rfl, rfl, rfl⟩

/-- EN after a configuration write: set by a 1 in bit 0 of CTRL, never cleared. -/
theorem Block.regWrite_en (b : Block vw lw) (idx : RegIndex) (d : BitVec vw) :
    (b.regWrite idx d).en = (b.en || (decide (idx = 0x00) && d.getLsbD 0)) := by
  unfold Block.regWrite
  split
  · next h => simp [h]
  · next h =>
    split
    · next he => simp [he]
    · next he =>
      unfold Block.writeUnlocked
      split <;> simp_all

/-- The lock: while EN = 1 a configuration write changes nothing (45_host_events.md R110). -/
theorem Block.regWrite_locked (b : Block vw lw) (idx : RegIndex) (d : BitVec vw) (h : b.en = true) :
    b.regWrite idx d = b := by
  unfold Block.regWrite Block.writeCtrl
  split <;> simp [h]
  cases b
  simp_all

/-! The classifier. -/

/-- A scan that finds a slot finds it in a window of its list: the reading is below the slot's trigger and above the bound
it was tested with. -/
theorem scanWindows_some_mem {v : Voltage} {lb : Nat} {ws : List (Idx × Nat)} {k : Idx}
    (h : scanWindows v lb ws = some k) : ∃ t, (k, t) ∈ ws ∧ v.lt t = true := by
  induction ws generalizing lb with
  | nil => simp [scanWindows] at h
  | cons w rest ih =>
    obtain ⟨j, t⟩ := w
    simp only [scanWindows] at h
    split at h
    · next hc =>
      cases h
      exact ⟨t, by simp, by simp_all⟩
    · obtain ⟨t', hm, ht⟩ := ih h
      exact ⟨t', by simp [hm], ht⟩

/-! `exec` and `step`. -/

/-- The registers the rule of event `i` leaves in state `s`. -/
def EventLeaves (s : State) (b : Block s.params.voltBits s.params.levelBits) : Instr → Prop
  | .reset => b = s.block.cleared
  | .cfgwr => b = s.block.regWrite s.inputs.cfgIdx s.inputs.cfgWdata
  | .nop => b = s.block
  | .tickoff => b = s.block
  | .emitA => ∃ k, s.block.clsA s.inputs = some k ∧ b = s.block.emit (slotOf .a k)
  | .emitB => ∃ k, s.block.clsB s.inputs = some k ∧ b = s.block.emit (slotOf .b k)
  | .noact => b = s.block.noMatch
  | .hold => b = s.block
  | .release => b = s.block.release

/-- If an event answers a next state, that state has the registers of the event's rule and differs in nothing else. -/
theorem exec_next_cases {i : Instr} {s t : State} (h : exec i s = .next t) :
    ∃ b, t = s.withBlock b ∧ EventLeaves s b i := by
  cases i with
  | reset => cases h; exact ⟨_, rfl, rfl⟩
  | cfgwr => cases h; exact ⟨_, rfl, rfl⟩
  | nop => cases h; exact ⟨s.block, rfl, rfl⟩
  | tickoff => cases h; exact ⟨s.block, rfl, rfl⟩
  | hold => cases h; exact ⟨s.block, rfl, rfl⟩
  | noact => cases h; exact ⟨_, rfl, rfl⟩
  | release => cases h; exact ⟨_, rfl, rfl⟩
  | emitA =>
    simp only [exec, execEmitA] at h
    split at h
    · next k hk => cases h; exact ⟨_, rfl, k, hk, rfl⟩
    · cases h
  | emitB =>
    simp only [exec, execEmitB] at h
    split at h
    · next k hk => cases h; exact ⟨_, rfl, k, hk, rfl⟩
    · cases h

/-- If a step answers a next state, its event answered the same registers before the clock moved on. -/
theorem step_next_cases {s t : State} (h : step s = .next t) :
    ∃ b, t = s.clocked b ∧ exec s.event s = .next (s.withBlock b) ∧ EventLeaves s b s.event := by
  unfold step at h
  split at h
  · next u hu =>
    cases h
    obtain ⟨b, rfl, hb⟩ := exec_next_cases hu
    exact ⟨b, rfl, hu, hb⟩
  · cases h
  · cases h

/-- The registers a step leaves determine the next state. -/
theorem StepsTo.unique {s : State} {b b' : Block s.params.voltBits s.params.levelBits}
    (h : StepsTo s b) (h' : StepsTo s b') : b = b' := by
  have e : s.clocked b = s.clocked b' := Host.Outcome.next.inj (h.symm.trans h')
  simpa [State.clocked] using e

/-- What a step leaves in the registers is what the rule of its event leaves. -/
theorem StepsTo.leaves {s : State} {b : Block s.params.voltBits s.params.levelBits} (h : StepsTo s b) :
    EventLeaves s b s.event := by
  obtain ⟨c, hc, -, hl⟩ := step_next_cases h
  have e : b = c := by simpa [State.clocked] using hc
  rw [e]
  exact hl

/-- A step does what its event does. -/
theorem StepsTo.of_exec {s : State} {b : Block s.params.voltBits s.params.levelBits}
    (h : exec s.event s = .next (s.withBlock b)) : StepsTo s b := by
  unfold StepsTo step
  rw [h]
  rfl

/-- A run goes on from where its first step leads. -/
theorem runSteps_succ {s t : State} (n : Nat) (h : step s = .next t) : runSteps (n + 1) s = runSteps n t := by
  simp only [runSteps, h]

/-! A dispatch cycle that emits. -/

/-- The slot a dispatch cycle emits is its wire's slot of the index that wire classifies to. -/
theorem Block.emits_iff {n vw lw : Nat} {b : Block vw lw} {i : Inputs n vw} {s : Slot} :
    b.Emits i s ↔ (∃ k, b.clsA i = some k ∧ s = slotOf .a k)
      ∨ (b.clsA i = none ∧ ∃ k, b.clsB i = some k ∧ s = slotOf .b k) := by
  have h : ∀ (s : Slot) (k : Idx), (s.toNat = k.toNat ↔ s = slotOf .a k)
      ∧ (s.toNat = 4 + k.toNat ↔ s = slotOf .b k) := by decide
  simp only [Block.Emits, (h s _).1, (h s _).2]

/-- A tick while both wires are at or above the floor does not keep holding, in any mode. -/
theorem Block.holdBit_of_above_floor {n vw lw : Nat} {b : Block vw lw} {i : Inputs n vw}
    (ha : b.blwA i = false) (hb : b.blwB i = false) : b.holdBit i = false := by
  simp only [Block.holdBit, ha, hb]
  cases b.relmode <;> rfl

end Sys2Proof.Machine
end

