-- ==== Sys2Proof/Laws/PerInstr.lean ====
section
/-! SUPPORT. Facts made per event: the family `MatchInMask`, about the rows of the event table (30_encoding.md R55). -/

namespace Sys2Proof.Laws

/-- The match of an event has no bit outside its mask, and its mask looks at `rst`. -/
def MatchInMask.Statement (i : Instr) : Prop :=
  eventMatch i &&& ~~~eventMask i = 0 ∧ (eventMask i).getLsbD 7 = true

theorem MatchInMask.reset : MatchInMask.Statement .reset := ⟨rfl, rfl⟩
theorem MatchInMask.cfgwr : MatchInMask.Statement .cfgwr := ⟨rfl, rfl⟩
theorem MatchInMask.nop : MatchInMask.Statement .nop := ⟨rfl, rfl⟩
theorem MatchInMask.tickoff : MatchInMask.Statement .tickoff := ⟨rfl, rfl⟩
theorem MatchInMask.emitA : MatchInMask.Statement .emitA := ⟨rfl, rfl⟩
theorem MatchInMask.emitB : MatchInMask.Statement .emitB := ⟨rfl, rfl⟩
theorem MatchInMask.noact : MatchInMask.Statement .noact := ⟨rfl, rfl⟩
theorem MatchInMask.hold : MatchInMask.Statement .hold := ⟨rfl, rfl⟩
theorem MatchInMask.release : MatchInMask.Statement .release := ⟨rfl, rfl⟩

end Sys2Proof.Laws
end

