-- ==== Sys2Proof/Tests/Slice0.lean ====
section
/-! SUPPORT. Tests of the model against the spec's own vectors (95_test_vectors.md) and the witnesses of the statements'
hypotheses. Expected values are the spec's; each docstring names the vector. -/

namespace Sys2Proof.Tests

open Sys2Proof.Machine

/-! The configurations of 95_test_vectors.md: N = 10, VW = 16, LW = 8. -/

/-- The parameters of the vectors. -/
abbrev vp : Params := Config.vectorParams

/-- The registers with configuration STD loaded, in the given sequencing state. -/
def std (en : Bool) (m : RelMode) (f : Fsm) (r : Res) (slot : Slot) (out : BitVec 8) : Block 16 8 where
  en := en
  relmode := m
  fsm := f
  res := r
  slot := slot
  vref := 5000
  floor := 100
  tol := 25
  wiremap := 0xF0
  out := out
  trig := #v[2000, 1500, 1000, 500, 2400, 1800, 1200, 600]
  act := #v[10, 20, 30, 40, 50, 60, 70, 80]

/-- The registers with configuration UNIT: `volt(raw) = raw`. -/
def unit : Block 16 8 :=
  { std true .both .idle .noData 0 0 with
    vref := 1023, floor := 20, trig := #v[400, 300, 200, 100, 400, 300, 200, 100] }

/-- The inputs of a `TICK a, b` line. -/
def tickOf (a b : Nat) : Inputs 10 16 := (TraceLine.tick a b).inputs 10 16

/-- The inputs of a `CFGWR index, value` line. -/
def cfgOf (i v : Nat) : Inputs 10 16 := (TraceLine.cfgwr i v).inputs 10 16

/-- A state in which the ports show `i`. -/
def at1 (b : Block 16 8) (i : Inputs 10 16) : State := State.mk' vp b [i] 0

/-- The registers after one step. -/
def after (s : State) : Option ((vw : Nat) × (lw : Nat) × Block vw lw) :=
  match step s with
  | .next t => some ⟨t.params.voltBits, t.params.levelBits, t.block⟩
  | .fault _ => none
  | .refused _ => none

/-- S, and the step's STATUS read-back and OUT: what a trace line of 95_test_vectors.md lists. -/
def line (s : State) : Nat × Option (Nat × Nat) :=
  (s.selectWord.toNat, (after s).map fun b => (b.2.2.statusWord.toNat, b.2.2.out.toNat))

/-- The read-back of an index after a step. -/
def readBack (s : State) (idx : RegIndex) : Option Nat := (after s).map fun b => (b.2.2.regRead idx).toNat

/-- IDLE in run mode, mode BOTH. -/
def idle : Block 16 8 := std true .both .idle .noData 0 0

/-- HOLD in run mode, mode BOTH, slot 0 held at its level. -/
def held : Block 16 8 := std true .both .hold .matched 0 10

/-- Configuration mode with STD loaded. -/
def config : Block 16 8 := std false .both .idle .noData 0 0

/-! Decoding: one word of each event, written out from its pattern (30_encoding.md R55, 95_test_vectors.md V6). -/

theorem test_decode_reset : decode 0b10000000#8 = .reset ∧ decode 0b11111111#8 = .reset := by decide
theorem test_decode_cfgwr : decode 0b01000000#8 = .cfgwr ∧ decode 0b01111111#8 = .cfgwr := by decide
theorem test_decode_nop : decode 0b00000000#8 = .nop ∧ decode 0b00011111#8 = .nop := by decide
theorem test_decode_tickoff : decode 0b00100000#8 = .tickoff ∧ decode 0b00101111#8 = .tickoff := by decide
theorem test_decode_emitA : decode 0b00110100#8 = .emitA ∧ decode 0b00110111#8 = .emitA := by decide
theorem test_decode_emitB : decode 0b00110010#8 = .emitB ∧ decode 0b00110011#8 = .emitB := by decide
theorem test_decode_noact : decode 0b00110000#8 = .noact ∧ decode 0b00110001#8 = .noact := by decide
theorem test_decode_hold : decode 0b00111001#8 = .hold ∧ decode 0b00111111#8 = .hold := by decide
theorem test_decode_release : decode 0b00111000#8 = .release ∧ decode 0b00111110#8 = .release := by decide
theorem test_decodeTableWord : decodeTableWord 8 0x34 = some .emitA ∧ decodeTableWord 8 0x80 = some .reset := by decide
theorem test_decode_refuses_no_word : decodeWords [] = .error (.notOneWord 0) := rfl
theorem test_decode_refuses_two_words : decodeWords [0x80, 0] = .error (.notOneWord 2) := rfl
theorem test_regOfIndex_index :
    ∀ i : RegIndex, (match regOfIndex i with
      | some r => r.index == i
      | none => i == 7 || (0x18 : RegIndex).ule i) = true := by decide

/-! Well-formedness: one ill-formed term for each check. -/

theorem test_wf_vectorParams : vp.wf = true := by decide
theorem test_wf_refuses_adcBits : ({ vp with adcBits := 0 } : Params).wf = false := by decide
theorem test_wf_refuses_voltBits : ({ vp with voltBits := 7, levelBits := 7 } : Params).wf = false := by decide
theorem test_wf_refuses_wide_levels : ({ vp with levelBits := 17 } : Params).wf = false := by decide
theorem test_wf_refuses_levelBits : ({ vp with levelBits := 0 } : Params).wf = false := by decide
theorem test_wf_refuses_pollInterval : ({ vp with pollInterval := 0 } : Params).wf = false := by decide
theorem test_wf_refuses_index : (TraceLine.cfgwr 32 0).wf vp = false ∧ (TraceLine.cfgwr 31 0).wf vp = true := by decide
theorem test_wf_refuses_data :
    (TraceLine.cfgwr 0 65536).wf vp = false ∧ (TraceLine.cfgwr 0 65535).wf vp = true := by decide
theorem test_wf_refuses_raw_a : (TraceLine.tick 1024 0).wf vp = false ∧ (TraceLine.tick 1023 0).wf vp = true := by decide
theorem test_wf_refuses_raw_b : (TraceLine.tick 0 1024).wf vp = false ∧ (TraceLine.tick 0 1023).wf vp = true := by decide
theorem test_wf_refuses_trigs : (TraceItem.trigs .a 0 0 0 65536).wf vp = false := by decide
theorem test_wf_refuses_acts : (TraceItem.acts .b 65536 0 0 0).wf vp = false := by decide
theorem test_wf_refuses_ticks : (TraceItem.ticks 2 0 1024).wf vp = false ∧ (TraceItem.ticks 2 1024 0).wf vp = false := by
  decide
theorem test_assemble_refuses : assemble vp [.enable, .line (.tick 1024 0)] = none := by decide
/-- R61: the pseudo-lines expand to CFGWR lines on the wire's own four indices. -/
theorem test_expand_trigs : (TraceItem.trigs .b 2400 1800 1200 600).expand =
    [.cfgwr 12 2400, .cfgwr 13 1800, .cfgwr 14 1200, .cfgwr 15 600] := by decide
theorem test_expand_acts_enable :
    (TraceItem.acts .a 10 20 30 40).expand = [.cfgwr 16 10, .cfgwr 17 20, .cfgwr 18 30, .cfgwr 19 40]
      ∧ (TraceItem.enableMode .bOnly).expand = [.cfgwr 0 5] ∧ TraceItem.enable.expand = [.cfgwr 0 1] := by decide

/-! The text of a trace, with lines of 95_test_vectors.md. -/

/-- Lines of P4 and P5, as text. -/
theorem test_text_lines :
    (itemsOfLines 1 (pieces (· == '\n')
      "RESET\nCFGWR ACT[0], 0x1FF    ; a comment\n\nCFGWR 0x07, 0xFFFF\nTRIGS A, 500, 1000, 1500, 2000\nENABLE\nTICK 348, 1023".toList)).toOption
      = some [.line .reset, .line (.cfgwr 16 511), .line (.cfgwr 7 65535), .trigs .a 500 1000 1500 2000, .enable,
          .line (.tick 348 1023)] := by decide
theorem test_text_pseudo_lines :
    (itemsOfLines 1 ["ENABLE A_ONLY".toList, "ACTS B, 50, 60, 70, 80".toList, "NOPS 3".toList, "TICKS 2, 5, 21".toList,
      "CFGWR STATUS, 0".toList]).toOption
      = some [.enableMode .aOnly, .acts .b 50 60 70 80, .nops 3, .ticks 2 5 21, .line (.cfgwr 1 0)] := by decide
theorem test_text_refuses_badLine :
    [itemsOfLines 1 ["RESET".toList, "TRIG 1".toList], itemsOfLines 1 ["NOP".toList, "CFGWR TRIG[8], 1".toList],
      itemsOfLines 1 ["NOP".toList, "TICK 0x, 1".toList]] = List.replicate 3 (.error (.badLine 2)) := by rfl
theorem test_text_refuses_doesNotFit : assembleText vp "TICK 1024, 0".toList = .error .doesNotFit := by rfl
theorem test_register_names_read_back :
    ∀ s : Slot, registerNamed (Reg.trig s).name = some (.trig s) ∧ registerNamed (Reg.act s).name = some (.act s) := by decide

/-! The pure functions: V1 to V5. -/

/-- V1: STD, raw 20 is below the floor and raw 21 is not. -/
theorem test_below :
    idle.blwA (tickOf 20 21) = true ∧ idle.blwB (tickOf 20 21) = false ∧ unit.blwA (tickOf 19 20) = true
      ∧ unit.blwB (tickOf 19 20) = false := by decide
/-- V2: both ends of windows and the dead points of f = 100, t = [2000, 1500, 1000, 500]. -/
theorem test_classify_dead_points :
    [100, 101, 499, 500, 501, 1000, 1001, 1500, 1501, 1999, 2000].map
        (fun v => classify ⟨v, 1⟩ 100 (fun k => [2000, 1500, 1000, 500].getD k.toNat 0))
      = [none, some 3, some 3, none, some 2, none, some 1, none, some 0, some 0, none] := by decide
/-- V2: equal neighbours, f = 100, t = [300, 200, 200, 100]. -/
theorem test_classify_equal_neighbours :
    [150, 250, 200].map (fun v => classify ⟨v, 1⟩ 100 (fun k => [300, 200, 200, 100].getD k.toNat 0))
      = [some 2, some 0, none] := by decide
/-- V3: the ends of the raw ranges of STD on wire A and wire B. -/
theorem test_classify_raw_wire_a :
    [20, 21, 102, 103, 204, 205, 306, 307, 409, 410].map (fun r => enc (idle.clsA (tickOf r 0)))
      = [0, 7, 7, 6, 6, 5, 5, 4, 4, 0] := by decide
theorem test_classify_raw_wire_b :
    [20, 21, 122, 123, 245, 246, 368, 369, 491, 492].map (fun r => enc (idle.clsB (tickOf 0 r)))
      = [0, 7, 7, 6, 6, 5, 5, 4, 4, 0] := by decide
/-- V4: STD; ends of windows, and the lowest number wins. -/
theorem test_tolerance_std :
    [(404, 0), (405, 0), (414, 0), (415, 0), (0, 123), (100, 123), (205, 491), (1023, 128)].map
        (fun x : Nat × Nat => idle.dec (tickOf x.1 x.2))
      = [none, some 0, some 0, none, some 7, some 3, some 2, none] := by decide
/-- V4: UNIT-D; WIREMAP sends slot 1 to wire B, and slot 2's window has a negative lower end. -/
theorem test_tolerance_unitD :
    [(94, 0), (95, 0), (105, 0), (106, 0), (0, 0), (8, 0), (9, 0), (500, 500), (300, 104), (300, 98)].map
        (fun x : Nat × Nat =>
          ({ unit with tol := 5, wiremap := 0xF2, trig := #v[100, 104, 3, 500, 500, 700, 800, 900] } : Block 16 8).dec
            (tickOf x.1 x.2))
      = [none, some 0, some 0, none, some 2, some 2, none, some 3, some 1, none] := by decide
/-- V5: the hold condition in its three modes on (0, 1) and (1, 0). -/
theorem test_holdCond :
    [RelMode.both, .aOnly, .bOnly].map (fun m => (holdCond m false true, holdCond m true false))
      = [(true, true), (false, true), (true, false)] := by decide

/-! The events, one step each; the numbers are S, STATUS and OUT of the lines of P1 to P4. -/

/-- P4: RESET during a hold. -/
theorem test_reset_in_a_hold :
    line (at1 (std true .aOnly .hold .matched 0 255) (TraceLine.reset.inputs 10 16)) = (0x99, some (0, 0)) := by decide
theorem test_reset_clears_the_record :
    after (at1 held (TraceLine.reset.inputs 10 16)) = some ⟨16, 8, Block.zero 16 8⟩ := by decide
/-- V7: data above the register's width is dropped. -/
theorem test_cfgwr_truncates :
    readBack (at1 config (cfgOf 0x10 0x1FF)) 0x10 = some 0xFF ∧ readBack (at1 config (cfgOf 0x05 0x1F0)) 0x05 = some 0xF0 := by
  decide
/-- V7 and P4: RELMODE = 3 is ignored, the enabling write carries the mode, and a locked write with a tick does nothing. -/
theorem test_cfgwr_ctrl :
    readBack (at1 config (cfgOf 0 6)) 0 = some 0 ∧ readBack (at1 config (cfgOf 0 3)) 0 = some 3
      ∧ line (at1 (std true .aOnly .hold .matched 0 255) { cfgOf 3 0 with tick := true, rawA := 348, rawB := 1023 })
        = (0x7C, some (5, 255)) := by decide
/-- P1: NOP during a hold. -/
theorem test_nop_in_a_hold : line (at1 held (TraceLine.nop.inputs 10 16)) = (0x19, some (0x05, 10)) := by decide
/-- P4: TICKOFF with the comparators showing a match. -/
theorem test_tickoff : line (at1 config (tickOf 348 0)) = (0x25, some (0, 0)) := by decide
/-- P1: EMIT_A of slot 0. -/
theorem test_emitA : line (at1 idle (tickOf 348 1023)) = (0x34, some (0x05, 10)) := by decide
/-- P2: wire A wins although wire B matches. -/
theorem test_emitA_priority : line (at1 idle (tickOf 150 300)) = (0x36, some (0x15, 30)) := by decide
/-- P2: EMIT_B of slot 5. -/
theorem test_emitB : line (at1 idle (tickOf 1023 300)) = (0x32, some (0x2D, 60)) := by decide
/-- P3: EMIT_B of slot 7 at the lowest matching sample, mode B_ONLY, wire A below the floor. -/
theorem test_emitB_top_slot :
    line (at1 (std true .bOnly .idle .notMatched 3 0) (tickOf 5 21)) = (0x32, some (0x3D, 80)) := by decide
/-- P1 and P2: NOACT, SLOT keeps the last match. -/
theorem test_noact :
    line (at1 idle (tickOf 1023 1023)) = (0x30, some (0x02, 0))
      ∧ line (at1 (std true .both .idle .matched 5 0) (tickOf 0 0)) = (0x31, some (0x2A, 0)) := by decide
/-- P1: HOLD while wire B is below the floor, a match on wire A ignored. -/
theorem test_hold : line (at1 held (tickOf 348 10)) = (0x3D, some (0x05, 10)) := by decide
/-- P3: HOLD in mode BOTH with wire A back up. -/
theorem test_hold_one_wire_up :
    line (at1 (std true .both .hold .matched 3 40) (tickOf 1023 5)) = (0x39, some (0x1D, 40)) := by decide
/-- P1: RELEASE, nothing dispatched on the tick. -/
theorem test_release : line (at1 held (tickOf 348 1023)) = (0x3C, some (0x04, 0)) := by decide
/-- P3: RELEASE in mode A_ONLY with wire B below the floor. -/
theorem test_release_a_only :
    line (at1 (std true .aOnly .hold .matched 3 40) (tickOf 60 5)) = (0x3C, some (0x1C, 0)) := by decide
/-- P4: the query outputs work in configuration mode: `cls_a = 4`, `blw_b = 1`. -/
theorem test_outputs_in_config_mode :
    ((config.outputs (tickOf 348 0)).clsA, (config.outputs (tickOf 348 0)).blwB) = (4, 1) := by decide

/-! The host's entry: every row's word is fetched from reset and its event taken. -/

theorem test_withFetchWord_selects :
    [0x80, 0x40, 0x00, 0x20, 0x34, 0x32, 0x30, 0x39, 0x38].map (fun w => (State.reset.withFetchWord 8 w).event)
      = [.reset, .cfgwr, .nop, .tickoff, .emitA, .emitB, .noact, .hold, .release] := by decide
theorem test_withFetchWord_completes :
    ([0x80, 0x40, 0x00, 0x20, 0x34, 0x32, 0x30, 0x39, 0x38].map
      fun w => (after (State.reset.withFetchWord 8 w)).isSome).all id = true := by decide

/-! Witnesses: for every statement of Certificates/Slice0/Obligations.lean that has hypotheses, a concrete state that meets
them together; where a statement has several clauses over one input, a state for each, at the ends of its range. -/

theorem witness_StepRunsTheDecodedEvent : decode (at1 held (tickOf 348 1023)).selectWord = .release := by decide
theorem witness_EncodeDecodeRoundTrip : vp.wf = true := by decide
theorem witness_PrioritiesSelectTheEvent :
    [at1 held (TraceLine.reset.inputs 10 16), at1 held (cfgOf 0 0), at1 held (TraceLine.nop.inputs 10 16),
      at1 config (tickOf 348 0), at1 idle (tickOf 348 348), at1 idle (tickOf 1023 300), at1 idle (tickOf 1023 1023),
      at1 held (tickOf 20 21), at1 held (tickOf 21 21)].map State.event
      = [.reset, .cfgwr, .nop, .tickoff, .emitA, .emitB, .noact, .hold, .release] := by decide
theorem witness_ResetClearsEveryRegister : (at1 held (TraceLine.reset.inputs 10 16)).inputs.rst = true := rfl

/-- CFGWR in configuration mode: the indices at the ends of every clause. -/
theorem witness_CfgwrWritesOneRegister_unlocked :
    ∀ x ∈ [0, 1, 2, 3, 4, 5, 6, 7, 8, 15, 16, 23, 24, 31],
      (at1 config (cfgOf x 0xFFFF)).inputs.rst = false ∧ (at1 config (cfgOf x 0xFFFF)).inputs.cfgWe = true
        ∧ (at1 config (cfgOf x 0xFFFF)).block.en = false
        ∧ (at1 config (cfgOf x 0xFFFF)).inputs.cfgIdx.toNat = x := by decide
/-- The table clauses meet their boundary slots, and only there: 0x08 and 0x0F, 0x10 and 0x17. -/
theorem witness_CfgwrWritesOneRegister_slots :
    (cfgOf 8 1).cfgIdx = 0x08 + (0 : Slot).setWidth 5 ∧ (cfgOf 15 1).cfgIdx = 0x08 + (7 : Slot).setWidth 5
      ∧ (cfgOf 16 1).cfgIdx = 0x10 + (0 : Slot).setWidth 5 ∧ (cfgOf 23 1).cfgIdx = 0x10 + (7 : Slot).setWidth 5
      ∧ (0x18 : RegIndex) ≤ (cfgOf 24 1).cfgIdx ∧ (0x18 : RegIndex) ≤ (cfgOf 31 1).cfgIdx
      ∧ ¬(0x18 : RegIndex) ≤ (cfgOf 23 1).cfgIdx := by decide
theorem witness_CfgwrWritesOneRegister_locked :
    (at1 held (cfgOf 3 0)).block.en = true ∧ (at1 held (cfgOf 3 0)).inputs.cfgIdx ≠ 0x00
      ∧ (at1 held (cfgOf 0 0)).block.en = true ∧ (at1 held (cfgOf 0 0)).inputs.cfgIdx = 0x00 := by decide
theorem witness_NopChangesNothing :
    (at1 held (TraceLine.nop.inputs 10 16)).inputs.IsNop
      ∧ ∀ i ∈ [TraceLine.nop.inputs 10 16, { tickOf 348 0 with tick := false }], i.IsNop := by decide
theorem witness_TickoffChangesNothing :
    (at1 config (tickOf 348 0)).inputs.IsTick ∧ (at1 config (tickOf 348 0)).block.en = false := by decide
theorem witness_EmitAEmitsWireASlot :
    (at1 idle (tickOf 307 300)).block.clsA (tickOf 307 300) = some 0
      ∧ (at1 idle (tickOf 102 300)).block.clsA (tickOf 102 300) = some 3 ∧ (tickOf 307 300).IsTick
      ∧ idle.en = true ∧ idle.fsm = .idle := by decide
theorem witness_EmitBEmitsWireBSlot :
    idle.clsA (tickOf 1023 369) = none ∧ idle.clsB (tickOf 1023 369) = some 0 ∧ idle.clsA (tickOf 20 21) = none
      ∧ idle.clsB (tickOf 20 21) = some 3 ∧ (tickOf 20 21).IsTick ∧ idle.en = true ∧ idle.fsm = .idle := by decide
theorem witness_NoactRecordsNoMatch :
    idle.clsA (tickOf 410 492) = none ∧ idle.clsB (tickOf 410 492) = none ∧ (tickOf 410 492).IsTick
      ∧ idle.en = true ∧ idle.fsm = .idle := by decide
theorem witness_HoldChangesNothing :
    held.holdBit (tickOf 20 21) = true ∧ held.holdBit (tickOf 21 20) = true ∧ (tickOf 20 21).IsTick ∧ held.en = true
      ∧ held.fsm = .hold := by decide
theorem witness_ReleaseClearsTheOutput :
    held.holdBit (tickOf 21 21) = false ∧ (tickOf 21 21).IsTick ∧ held.en = true ∧ held.fsm = .hold := by decide
theorem witness_EmissionWithoutMatchIsRefused :
    (at1 idle (tickOf 410 492)).block.clsA (at1 idle (tickOf 410 492)).inputs = none
      ∧ (at1 idle (tickOf 410 492)).block.clsB (at1 idle (tickOf 410 492)).inputs = none := by decide

/-- States that meet the invariants: all zero, configuration mode, IDLE in run mode, HOLD. -/
theorem held_inv : held.Inv := ⟨by decide, by decide, by decide, by decide, by decide⟩
theorem idle_inv : idle.Inv := ⟨by decide, by decide, by decide, by decide, by decide⟩
theorem config_inv : config.Inv := ⟨by decide, by decide, by decide, by decide, by decide⟩
theorem witness_StateTransitionTable :
    held.Inv ∧ ∃ t, step (at1 held (tickOf 21 21)) = .next t ∧ t.block.fsm = .idle := ⟨held_inv, _, rfl, rfl⟩
theorem witness_InvariantsHoldAfterEveryEvent :
    (held.Inv ∧ ∃ t, step (at1 held (tickOf 20 21)) = .next t)
      ∧ (at1 held (TraceLine.reset.inputs 10 16)).inputs.rst = true
      ∧ (at1 held (cfgOf 3 0)).block.en = true ∧ (at1 held (cfgOf 3 0)).inputs.rst = false :=
  ⟨⟨held_inv, _, rfl⟩, rfl, rfl, rfl⟩

/-- One clock edge that leaves other registers than it found: the hypothesis of the statements about what changed. -/
theorem stepsTo_emit : StepsTo (at1 idle (tickOf 348 1023)) held := rfl
theorem stepsTo_release : StepsTo (at1 held (tickOf 21 21)) (std true .both .idle .matched 0 0) := rfl
theorem stepsTo_hold : StepsTo (at1 held (tickOf 20 21)) held := rfl
theorem stepsTo_enable : StepsTo (at1 config (cfgOf 0 1)) idle := rfl
theorem witness_RegistersAreWrittenOnlyByTheirEvents :
    (∃ b, StepsTo (at1 idle (tickOf 348 1023)) b ∧ b.fsm ≠ idle.fsm ∧ b.res ≠ idle.res ∧ b.out ≠ idle.out)
      ∧ (∃ b, StepsTo (at1 idle (tickOf 1023 300)) b ∧ b.slot ≠ idle.slot)
      ∧ (∃ b, StepsTo (at1 config (cfgOf 0 1)) b ∧ b.en ≠ config.en)
      ∧ ∃ b, StepsTo (at1 config (cfgOf 3 7)) b ∧ ¬SameRecord config b :=
  ⟨⟨_, stepsTo_emit, by decide, by decide, (by decide : (10 : BitVec 8) ≠ 0)⟩, ⟨_, rfl, by decide⟩,
    ⟨_, stepsTo_enable, by decide⟩, ⟨_, rfl, by decide⟩⟩
theorem witness_FlagsAfterEachEvent : ∃ b, StepsTo (at1 idle (tickOf 348 1023)) b := ⟨_, stepsTo_emit⟩
theorem witness_RunModeIsEnteredByCtrlAndLeftByReset : ∃ b, StepsTo (at1 config (cfgOf 0 1)) b ∧ b.en = true :=
  ⟨_, stepsTo_enable, rfl⟩

/-- N = 10 and its smallest and greatest samples; the corner cases N = 1, VREF = 0. -/
theorem witness_VoltIsExactLinearScaling :
    1 ≤ 10 ∧ (0 : BitVec 10).toNat ≤ (1023 : BitVec 10).toNat ∧ (0 : BitVec 10).toNat < (1023 : BitVec 10).toNat
      ∧ 0 < (5000 : BitVec 16).toNat ∧ 1 ≤ 1 := by decide
theorem witness_ComparisonsAreExact : 1 ≤ 10 ∧ (volt (409 : BitVec 10) (5000 : BitVec 16)).lt 2000 = true := by decide
/-- UNIT at its floor, FLOOR = 0, VREF = 0. -/
theorem witness_FloorComparatorIsStrict :
    1 ≤ 10 ∧ ({ std true .both .idle .noData 0 0 with floor := 0 } : Block 16 8).floor = 0
      ∧ ({ std true .both .idle .noData 0 0 with vref := 0 } : Block 16 8).vref = 0
      ∧ (volt (20 : BitVec 10) (1023 : BitVec 16)).eq 20 = true := by decide
/-- The value hypothesis of the floor comparator, in rationals. -/
theorem witness_FloorComparatorIsStrict_value : (volt (20 : BitVec 10) unit.vref).value = unit.floor.toNat := by
  have h1 : (20 : BitVec 10).toNat = 20 := rfl
  have h2 : (1023 : BitVec 16).toNat = 1023 := rfl
  have h3 : (20 : BitVec 16).toNat = 20 := rfl
  simp only [volt, Voltage.value, fullScale, unit, h1, h2, h3]
  norm_num
/-- f = 100, t = [2000, 1500, 1000, 500]: well formed; v at the floor, at each trigger, above them, and inside. -/
theorem witness_ClassifyOnWellFormedTables :
    WFTable 100 (fun k => [2000, 1500, 1000, 500].getD k.toNat 0) ∧ (⟨100, 1⟩ : Voltage).le 100 = true
      ∧ (⟨2000, 1⟩ : Voltage).ge 2000 = true ∧ (⟨1500, 1⟩ : Voltage).eq 1500 = true
      ∧ (⟨1700, 1⟩ : Voltage).gt 100 = true ∧ (⟨1700, 1⟩ : Voltage).lt 2000 = true
      ∧ (⟨1700, 1⟩ : Voltage).eq 1500 = false ∧ (⟨1700, 1⟩ : Voltage).eq 1000 = false
      ∧ (⟨1700, 1⟩ : Voltage).eq 500 = false := by decide
/-- UNIT with WIREMAP 0xF0 is the record the host owes; raw 400, 300, 200, 100 are its triggers, 20 its floor, 101 and 401
lie just above a trigger. -/
theorem witness_DeadPointsClassifyToNothing :
    HostDuty unit
      ∧ [0, 1, 2, 3].map (unit.triggers .a) = [400, 300, 200, 100]
      ∧ [0, 1, 2, 3].map (unit.triggers .b) = [400, 300, 200, 100]
      ∧ [400, 300, 200, 100, 20, 101, 199, 401].map (fun r => (tickOf r r).rawA.toNat * unit.vref.toNat)
        = [400, 300, 200, 100, 20, 101, 199, 401].map (fun r => r * (2 ^ 10 - 1))
      ∧ [400, 300, 200, 100, 20, 101, 199, 401].map (fun r => enc (unit.clsA (tickOf r r)))
        = [0, 0, 0, 0, 0, 6, 6, 0] := by decide
/-- The tables of each item of R80: above every trigger; triggers not below the floor; rising; overlapping; equal
neighbours; all zero. -/
theorem witness_ClassifyOnAnyTable :
    (∀ k : Idx, (⟨2000, 1⟩ : Voltage).ge (([2000, 1500, 1000, 500].getD k.toNat 0 : Nat) : Int) = true)
      ∧ (100 ≤ 500 ∧ (⟨100, 1⟩ : Voltage).le 100 = true)
      ∧ (500 < 1000 ∧ 1000 < 1500 ∧ 1500 < 2000 ∧ 100 < 2000)
      ∧ ((0 : Idx) < 3 ∧ InWindow ⟨4, 1⟩ 0 (fun k => [20, 10, 3, 5].getD k.toNat 0) 3)
      ∧ ((1 : Idx) < 3 ∧ ([300, 200, 200, 100] : List Nat).getD ((1 : Idx) + 1).toNat 0
          = ([300, 200, 200, 100] : List Nat).getD (1 : Idx).toNat 0) := by decide
/-- The closed windows themselves are the only choice of `inside`. -/
theorem witness_DecodeTakesTheFirstClosedWindow :
    ∃ inside : Slot → Prop, ∀ s : Slot, inside s ↔
      ((idle.trig[s.toNat]'(s.isLt)).toNat - idle.tol.toNat : Int) * (2 ^ 10 - 1)
          ≤ (if idle.wiremap.getLsbD s.toNat = false then (tickOf 405 0).rawA.toNat else (tickOf 405 0).rawB.toNat)
            * idle.vref.toNat
      ∧ ((if idle.wiremap.getLsbD s.toNat = false then (tickOf 405 0).rawA.toNat else (tickOf 405 0).rawB.toNat)
            * idle.vref.toNat : Int)
          ≤ ((idle.trig[s.toNat]'(s.isLt)).toNat + idle.tol.toNat) * (2 ^ 10 - 1) :=
  ⟨_, fun _ => Iff.rfl⟩
/-- UNIT with TOL = 0 decodes the trigger itself; VREF = 0; WIREMAP all on one wire. -/
theorem witness_DecodeCornerCases :
    ({ unit with tol := 0 } : Block 16 8).dec (tickOf 400 0) = some 0 ∧ (Block.zero 16 8).vref = 0
      ∧ (Block.zero 16 8).wiremap = 0x00 ∧ ({ unit with wiremap := 0xFF } : Block 16 8).wiremap = 0xFF
      ∧ 1 ≤ 10 := by decide
theorem witness_HoldConditionByMode :
    [std true .both .hold .matched 0 10, std true .aOnly .hold .matched 0 10, std true .bOnly .hold .matched 0 10].map
        Block.relmode = [.both, .aOnly, .bOnly] ∧ (Block.zero 16 8).floor = 0 := by decide
theorem witness_OutputsShowStateAndQueries : idle.dec (tickOf 405 0) = some 0 ∧ idle.dec (tickOf 404 0) = none := by
  decide
theorem witness_RegReadMap : 8 ≤ vp.voltBits ∧ vp.levelBits ≤ vp.voltBits ∧ (0x18 : RegIndex) ≤ 0x1F := by decide
/-- Configuration mode of legal parameters; a CTRL write of 2 and one of the excluded value 6; the ends of each range. -/
theorem witness_WriteThenReadTruncates :
    vp.wf = true ∧ config.en = false ∧ (cfgOf 0 2).cfgWdata.extractLsb' 1 2 ≠ 3
      ∧ (cfgOf 0 5).cfgWdata.extractLsb' 1 2 ≠ 3 ∧ (0x08 : RegIndex) ≤ (cfgOf 15 0).cfgIdx
      ∧ (cfgOf 15 0).cfgIdx ≤ 0x0F ∧ (0x10 : RegIndex) ≤ (cfgOf 23 0x1FF).cfgIdx ∧ (cfgOf 23 0x1FF).cfgIdx ≤ 0x17
      ∧ (0x18 : RegIndex) ≤ (cfgOf 31 0).cfgIdx := by decide
theorem witness_WriteLeavesOtherIndices : (0x02 : RegIndex) ≠ (cfgOf 3 7).cfgIdx := by decide
theorem witness_SilentDrops :
    (cfgOf 0 6).rst = false ∧ (cfgOf 0 6).cfgWe = true ∧ (cfgOf 0 6).cfgWdata.extractLsb' 1 2 = 3 ∧ held.en = true
      ∧ (cfgOf 1 0).cfgIdx = 0x01 ∧ (0x18 : RegIndex) ≤ (cfgOf 24 0).cfgIdx
      ∧ ({ cfgOf 3 0 with tick := true } : Inputs 10 16).tick = true := by decide
theorem witness_EnablingWriteCarriesTheMode :
    vp.wf = true ∧ config.en = false ∧ ∀ m : RelMode, (TraceItem.enableMode m).expand = [.cfgwr 0 (1 + 2 * modeNumber m)] :=
  ⟨by decide, rfl, fun _ => rfl⟩
theorem witness_DispatchCycleAsOneFunction :
    (at1 idle (tickOf 348 1023)).inputs.IsTick ∧ idle.en = true ∧ idle.fsm = .idle := by decide
/-- A wire A emission, a wire B emission, and a cycle without one. -/
theorem witness_EmittedSlotComesFromItsWire :
    idle.en = true ∧ idle.fsm = .idle
      ∧ (∃ b, StepsTo (at1 idle (tickOf 348 1023)) b ∧ b.fsm = .hold ∧ b.slot < 4)
      ∧ (∃ b, StepsTo (at1 idle (tickOf 1023 300)) b ∧ b.fsm = .hold ∧ ¬b.slot < 4)
      ∧ ∃ b, StepsTo (at1 idle (tickOf 1023 1023)) b ∧ b.fsm = .idle :=
  ⟨rfl, rfl, ⟨_, stepsTo_emit, by decide⟩, ⟨_, rfl, by decide⟩, ⟨_, rfl, rfl⟩⟩
theorem witness_PulseStartsAtEmitAndEndsAtRelease :
    (idle.fsm = .idle ∧ StepsTo (at1 idle (tickOf 348 1023)) held)
      ∧ (held.fsm = .hold ∧ StepsTo (at1 held (tickOf 20 21)) held)
      ∧ held.fsm = .hold ∧ StepsTo (at1 held (tickOf 21 21)) (std true .both .idle .matched 0 0) :=
  ⟨⟨rfl, stepsTo_emit⟩, ⟨rfl, stepsTo_hold⟩, rfl, stepsTo_release⟩
/-- The hold of P1 with a NOP and a configuration write between its polling ticks, started on wire A; the pulse of P2,
started on wire B, meets the same premises. -/
theorem witness_PulseOfAnyLength :
    idle.en = true ∧ idle.fsm = .idle ∧ (tickOf 348 1023).IsTick ∧ idle.Emits (tickOf 348 1023) 0
      ∧ (tickOf 1023 300).IsTick ∧ idle.Emits (tickOf 1023 300) 5
      ∧ (∀ x ∈ [tickOf 348 10, TraceLine.nop.inputs 10 16, cfgOf 3 0, tickOf 348 10],
          x.rst = false ∧ (x.IsTick → idle.holdBit x = true))
      ∧ (tickOf 348 1023).IsTick ∧ idle.holdBit (tickOf 348 1023) = false :=
  ⟨rfl, rfl, by decide, .inl ⟨0, by decide⟩, by decide, .inr ⟨by decide, 1, by decide⟩, by decide, by decide, by decide⟩
theorem witness_ReleaseNeedsBothWires :
    (at1 held (tickOf 21 21)).params.wf = true ∧ (at1 held (tickOf 21 21)).inputs.IsTick ∧ held.en = true
      ∧ held.fsm = .hold ∧ held.relmode = .both := by decide
theorem witness_UnwatchedWireHasNoInfluence :
    (∃ b, (std true .aOnly .hold .matched 3 40).relmode = .aOnly
        ∧ step (State.mk' vp (std true .aOnly .hold .matched 3 40) [tickOf 60 5] 0) = .next (State.mk' vp b [] 1))
      ∧ ∃ b, (std true .bOnly .hold .matched 3 40).relmode = .bOnly
        ∧ step (State.mk' vp (std true .bOnly .hold .matched 3 40) [tickOf 5 1023] 0) = .next (State.mk' vp b [] 1) :=
  ⟨⟨_, rfl, rfl⟩, ⟨_, rfl, rfl⟩⟩
/-- Four ticks of a press on wire A, slot 0: differing samples, the ends of slot 0's raw range at the dispatching ones, and
both wires at or above the floor at the polling ones. -/
def pressA : List (Inputs 10 16) := [tickOf 307 1023, tickOf 348 21, tickOf 409 0, tickOf 1023 1023]

theorem witness_PressAboveTheFloorAlternates :
    idle.en = true ∧ idle.fsm = .idle
      ∧ ∀ (m : Nat) (h : m < pressA.length),
        pressA[m].IsTick
        ∧ (m % 2 = 0 → idle.Emits pressA[m] 0)
        ∧ (m % 2 = 1 →
          (idle.blwA pressA[m] = false ∧ idle.blwB pressA[m] = false) ∨ idle.holdBit pressA[m] = false) := by
  have a0 : idle.clsA (tickOf 307 1023) = some 0 := by decide
  have f1 : idle.blwA (tickOf 348 21) = false ∧ idle.blwB (tickOf 348 21) = false := by decide
  have a2 : idle.clsA (tickOf 409 0) = some 0 := by decide
  have f3 : idle.blwA (tickOf 1023 1023) = false ∧ idle.blwB (tickOf 1023 1023) = false := by decide
  refine ⟨rfl, rfl, fun m h => ?_⟩
  match m, h with
  | 0, _ => exact ⟨⟨rfl, rfl, rfl⟩, fun _ => .inl ⟨0, a0, rfl⟩, nofun⟩
  | 1, _ => exact ⟨⟨rfl, rfl, rfl⟩, nofun, fun _ => .inl f1⟩
  | 2, _ => exact ⟨⟨rfl, rfl, rfl⟩, fun _ => .inl ⟨0, a2, rfl⟩, nofun⟩
  | 3, _ => exact ⟨⟨rfl, rfl, rfl⟩, nofun, fun _ => .inl f3⟩

/-- A press on wire B, slot 5, in mode A_ONLY: the polling tick has wire B below the floor and a false hold condition. -/
theorem witness_PressAboveTheFloorAlternates_wire_b :
    (std true .aOnly .idle .noData 0 0).Emits (tickOf 1023 246) 5
      ∧ (tickOf 1023 0).IsTick ∧ (std true .aOnly .idle .noData 0 0).holdBit (tickOf 1023 0) = false
      ∧ (std true .aOnly .idle .noData 0 0).Emits (tickOf 20 368) 5 :=
  ⟨.inr ⟨by decide, 1, by decide⟩, by decide, by decide, .inr ⟨by decide, 1, by decide⟩⟩
theorem witness_FlagsAreReadByNoEvent :
    ∃ b', step (State.mk' vp idle [tickOf 348 1023] 0) = .next (State.mk' vp b' [] (0 + 1)) := ⟨_, rfl⟩
theorem witness_TicksIgnoreWiremapAndTolerance :
    (tickOf 348 1023).IsTick
      ∧ ∃ b', step (State.mk' vp idle [tickOf 348 1023] 0) = .next (State.mk' vp b' [] (0 + 1)) :=
  ⟨by decide, _, rfl⟩
theorem witness_PollIntervalIsReadByNothing :
    ∃ b', step (State.mk' vp idle [tickOf 348 1023] 0) = .next (State.mk' vp b' [tickOf 348 1023].tail (0 + 1)) :=
  ⟨_, rfl⟩
theorem witness_FetchWordIsShown : State.reset.params.wf = true := by decide
/-- Lines at the ends of their ports' ranges, and an item that does not fit. -/
theorem witness_TraceLinesDriveTheirEvents :
    [TraceLine.reset, .cfgwr 0 0, .cfgwr 31 65535, .nop, .tick 0 0, .tick 1023 1023].all (TraceLine.wf vp) = true
      ∧ ∃ it ∈ [TraceItem.enable, .line (.tick 1024 0)], it.wf vp = false := by decide
/-- A register's name and a hexadecimal number, as a CFGWR line of V7 has them. -/
theorem witness_TraceTextReadsNamesAndComments : numeral "0x1FF".toList = some 511 ∧ (Reg.act 0).name = "ACT[0]".toList := by
  decide

end Sys2Proof.Tests
end

/-! SUPPORT. The proofs of the family 00_scope.md: a step runs the event its select word decodes to. -/

namespace Sys2Proof.Machine

/-! The step, by what `exec` answers for the event of the current clock. -/

/-- Where the event answers a next state, the step answers that state with the clock moved on. -/
theorem step_of_exec_next {s t : State} (h : exec s.event s = .next t) : step s = .next t.advance := by
  simp only [step, h]

/-- A fault of the event is passed on. -/
theorem step_of_exec_fault {s : State} {f : Fault} (h : exec s.event s = .fault f) : step s = .fault f := by
  simp only [step, h]

/-- A refusal of the event is passed on. -/
theorem step_of_exec_refused {s : State} {r : Refusal} (h : exec s.event s = .refused r) : step s = .refused r := by
  simp only [step, h]

/-- Settles O1: the decoded event is the event of the current clock, and the step follows what `exec` answers for it. -/
theorem stepRunsTheDecodedEvent : Obligations.StepRunsTheDecodedEvent := by
  unfold Obligations.StepRunsTheDecodedEvent
  intro s i hi
  have hev : s.event = i := hi
  subst hev
  cases h : exec s.event s with
  | next t => exact step_of_exec_next h
  | fault f => exact step_of_exec_fault h
  | refused r => exact step_of_exec_refused h

end Sys2Proof.Machine

/-! SUPPORT. Which event a clock selects and what its rule leaves: the layer the proofs of 10_state.md rest on. -/

namespace Sys2Proof.Machine

section Selection

variable {n vw lw : Nat}

/-! The event a clock selects (30_encoding.md R55). -/

/-- The condition on the ports and the registers under which a clock performs an event, with the priorities of
30_encoding.md R55 written out; `State.event_eq_iff` ties it to the select word. -/
def Block.Selects (b : Block vw lw) (i : Inputs n vw) : Instr → Prop
  | .reset => i.rst = true
  | .cfgwr => i.rst = false ∧ i.cfgWe = true
  | .nop => i.IsNop
  | .tickoff => i.IsTick ∧ b.en = false
  | .emitA => i.IsTick ∧ b.en = true ∧ b.fsm = .idle ∧ ∃ k, b.clsA i = some k
  | .emitB => i.IsTick ∧ b.en = true ∧ b.fsm = .idle ∧ b.clsA i = none ∧ ∃ k, b.clsB i = some k
  | .noact => i.IsTick ∧ b.en = true ∧ b.fsm = .idle ∧ b.clsA i = none ∧ b.clsB i = none
  | .hold => i.IsTick ∧ b.en = true ∧ b.fsm = .hold ∧ b.holdBit i = true
  | .release => i.IsTick ∧ b.en = true ∧ b.fsm = .hold ∧ b.holdBit i = false

/-- The decoder on a word written out as its eight bits. -/
theorem decode_of_bits (rst we tick en st mA mB hold : Bool) :
    decode (BitVec.ofBool rst ++ BitVec.ofBool we ++ BitVec.ofBool tick ++ BitVec.ofBool en ++ BitVec.ofBool st
        ++ BitVec.ofBool mA ++ BitVec.ofBool mB ++ BitVec.ofBool hold)
      = if rst then .reset
        else if we then .cfgwr
        else if !tick then .nop
        else if !en then .tickoff
        else if st then (if hold then .hold else .release)
        else if mA then .emitA
        else if mB then .emitB
        else .noact := by
  revert rst we tick en st mA mB hold; decide

theorem Fsm.bits_eq_ofBool (f : Fsm) : f.bits = BitVec.ofBool (decide (f = .hold)) := by
  cases f <;> rfl

/-- The selected event, read along the priorities of 30_encoding.md R55 in terms of the ports and the registers. -/
theorem Block.decode_selectWord (b : Block vw lw) (i : Inputs n vw) :
    decode (b.selectWord i)
      = if i.rst then .reset
        else if i.cfgWe then .cfgwr
        else if !i.tick then .nop
        else if !b.en then .tickoff
        else if decide (b.fsm = .hold) then (if b.holdBit i then .hold else .release)
        else if (b.clsA i).isSome then .emitA
        else if (b.clsB i).isSome then .emitB
        else .noact := by
  rw [Block.selectWord, Fsm.bits_eq_ofBool, decode_of_bits]

/-- An event whose condition holds is the one the select word decodes to. -/
theorem Block.Selects.decode_eq {b : Block vw lw} {i : Inputs n vw} {e : Instr} (h : b.Selects i e) :
    decode (b.selectWord i) = e := by
  rw [Block.decode_selectWord]
  cases e with
  | reset => simp_all [Block.Selects]
  | cfgwr => simp_all [Block.Selects]
  | nop => simp_all [Block.Selects]
  | tickoff => simp_all [Block.Selects]
  | emitA =>
    obtain ⟨ht, hen, hf, k, hk⟩ := h
    simp [ht, hen, hf, hk]
  | emitB =>
    obtain ⟨ht, hen, hf, ha, k, hk⟩ := h
    simp [ht, hen, hf, ha, hk]
  | noact => simp_all [Block.Selects]
  | hold => simp_all [Block.Selects]
  | release => simp_all [Block.Selects]

/-- In every clock some event's condition holds: there is no illegal event (30_encoding.md R60). -/
theorem Block.exists_selects (b : Block vw lw) (i : Inputs n vw) : ∃ e, b.Selects i e := by
  cases hr : i.rst with
  | true => exact ⟨.reset, hr⟩
  | false =>
  cases hw : i.cfgWe with
  | true => exact ⟨.cfgwr, hr, hw⟩
  | false =>
  cases ht : i.tick with
  | false => exact ⟨.nop, hr, hw, ht⟩
  | true =>
  cases hen : b.en with
  | false => exact ⟨.tickoff, ⟨hr, hw, ht⟩, hen⟩
  | true =>
  cases hf : b.fsm with
  | hold =>
    cases hh : b.holdBit i with
    | true => exact ⟨.hold, ⟨hr, hw, ht⟩, hen, hf, hh⟩
    | false => exact ⟨.release, ⟨hr, hw, ht⟩, hen, hf, hh⟩
  | idle =>
    cases ha : b.clsA i with
    | some k => exact ⟨.emitA, ⟨hr, hw, ht⟩, hen, hf, k, ha⟩
    | none =>
      cases hb : b.clsB i with
      | some k => exact ⟨.emitB, ⟨hr, hw, ht⟩, hen, hf, ha, k, hb⟩
      | none => exact ⟨.noact, ⟨hr, hw, ht⟩, hen, hf, ha, hb⟩

/-- A clock performs an event exactly under the event's condition. -/
theorem State.event_eq_iff {s : State} {e : Instr} : s.event = e ↔ s.block.Selects s.inputs e := by
  constructor
  · rintro rfl
    obtain ⟨e, he⟩ := s.block.exists_selects s.inputs
    have hev : s.event = e := he.decode_eq
    rwa [hev]
  · exact Block.Selects.decode_eq

end Selection

/-! The registers a clock edge leaves: `EventLeaves` of the selected event, which always leaves some. -/

section Leaves

variable {s : State} {b : Block s.params.voltBits s.params.levelBits} {e : Instr}

theorem EventLeaves.exec_eq (h : EventLeaves s b e) : exec e s = .next (s.withBlock b) := by
  cases e with
  | reset => cases h; rfl
  | cfgwr => cases h; rfl
  | nop => cases h; rfl
  | tickoff => cases h; rfl
  | noact => cases h; rfl
  | hold => cases h; rfl
  | release => cases h; rfl
  | emitA =>
    obtain ⟨k, hk, rfl⟩ := h
    simp only [exec, execEmitA, hk]
  | emitB =>
    obtain ⟨k, hk, rfl⟩ := h
    simp only [exec, execEmitB, hk]

/-- A clock edge leaves exactly what the rule of the clock's event leaves. -/
theorem stepsTo_iff_leaves : StepsTo s b ↔ EventLeaves s b s.event :=
  ⟨StepsTo.leaves, fun h => StepsTo.of_exec h.exec_eq⟩

/-- Where an event's condition holds its rule leaves some registers; an emission's condition gives it its slot. -/
theorem Block.Selects.exists_leaves (h : s.block.Selects s.inputs e) : ∃ b, EventLeaves s b e := by
  cases e with
  | emitA =>
    obtain ⟨-, -, -, k, hk⟩ := h
    exact ⟨_, k, hk, rfl⟩
  | emitB =>
    obtain ⟨-, -, -, -, k, hk⟩ := h
    exact ⟨_, k, hk, rfl⟩
  | reset => exact ⟨_, rfl⟩
  | cfgwr => exact ⟨_, rfl⟩
  | nop => exact ⟨_, rfl⟩
  | tickoff => exact ⟨_, rfl⟩
  | noact => exact ⟨_, rfl⟩
  | hold => exact ⟨_, rfl⟩
  | release => exact ⟨_, rfl⟩

/-- Under an event's condition the clock performs the event and leaves what its rule leaves. -/
theorem Block.Selects.steps (h : s.block.Selects s.inputs e) :
    s.event = e ∧ ∃ b, StepsTo s b ∧ EventLeaves s b e := by
  have he : s.event = e := State.event_eq_iff.mpr h
  obtain ⟨b, hb⟩ := h.exists_leaves
  exact ⟨he, b, stepsTo_iff_leaves.mpr (he ▸ hb), hb⟩

/-- No state is stuck (60_exceptions.md R128). -/
theorem exists_stepsTo (s : State) : ∃ b, StepsTo s b := by
  obtain ⟨-, b, hb, -⟩ := (State.event_eq_iff.mp rfl : s.block.Selects s.inputs s.event).steps
  exact ⟨b, hb⟩

/-! What each event leaves in the sequencing registers and in the record. -/

/-- STATE after an event (10_state.md R32). -/
def fsmAfter (f : Fsm) : Instr → Fsm
  | .reset | .release => .idle
  | .emitA | .emitB => .hold
  | .cfgwr | .nop | .tickoff | .noact | .hold => f

theorem EventLeaves.fsm_eq (h : EventLeaves s b e) : b.fsm = fsmAfter s.block.fsm e := by
  cases e with
  | reset => cases h; rfl
  | cfgwr =>
    obtain ⟨hfsm, -⟩ := s.block.regWrite_sequencing s.inputs.cfgIdx s.inputs.cfgWdata
    cases h; exact hfsm
  | nop => cases h; rfl
  | tickoff => cases h; rfl
  | emitA => obtain ⟨k, -, rfl⟩ := h; rfl
  | emitB => obtain ⟨k, -, rfl⟩ := h; rfl
  | noact => cases h; rfl
  | hold => cases h; rfl
  | release => cases h; rfl

theorem sameRecord_refl {vw lw : Nat} (b : Block vw lw) : SameRecord b b := ⟨rfl, rfl, rfl, rfl, rfl, rfl, rfl⟩

/-- No event but RESET, and CFGWR in configuration mode, writes EN, RELMODE or the record (10_state.md R11). -/
theorem EventLeaves.keeps_record (h : EventLeaves s b e) (hr : e ≠ .reset) (hc : e = .cfgwr → s.block.en = true) :
    b.en = s.block.en ∧ SameRecord s.block b := by
  cases e with
  | reset => exact absurd rfl hr
  | cfgwr =>
    have hb : b = s.block := h.trans (s.block.regWrite_locked _ _ (hc rfl))
    rw [hb]; exact ⟨rfl, sameRecord_refl _⟩
  | nop => cases h; exact ⟨rfl, sameRecord_refl _⟩
  | tickoff => cases h; exact ⟨rfl, sameRecord_refl _⟩
  | emitA => obtain ⟨k, -, rfl⟩ := h; exact ⟨rfl, sameRecord_refl _⟩
  | emitB => obtain ⟨k, -, rfl⟩ := h; exact ⟨rfl, sameRecord_refl _⟩
  | noact => cases h; exact ⟨rfl, sameRecord_refl _⟩
  | hold => cases h; exact ⟨rfl, sameRecord_refl _⟩
  | release => cases h; exact ⟨rfl, sameRecord_refl _⟩

end Leaves

/-! The encodings of a slot and of the outputs. -/

theorem slotOf_a_toNat (k : Idx) : (slotOf .a k).toNat = k.toNat := by revert k; decide

theorem slotOf_b_toNat (k : Idx) : (slotOf .b k).toNat = 4 + k.toNat := by revert k; decide

/-- The two fields of an encoded slot (30_encoding.md R59). -/
theorem encd_some_fields (s : Slot) :
    (encd (some s)).extractLsb' 3 1 = 1 ∧ (encd (some s)).extractLsb' 0 3 = s := by revert s; decide

theorem Fsm.bits_eq_one_iff {f : Fsm} : f.bits = 1 ↔ f = .hold := by cases f <;> decide

theorem ofBool_eq_one_iff {x : Bool} : BitVec.ofBool x = 1 ↔ x = true := by cases x <;> decide

end Sys2Proof.Machine

/-! SUPPORT. The proofs of the family 10_state.md: the invariants, who writes which register, and what no event reads. -/

namespace Sys2Proof.Machine

/-! The invariants of 10_state.md R28, operation by operation. -/

section Invariants

variable {vw lw : Nat} {b : Block vw lw}

/-- Item 3: the encodings have no value 3. -/
theorem Res.bits_ne_three (r : Res) : r.bits ≠ 3 := by cases r <;> decide
theorem RelMode.bits_ne_three (m : RelMode) : m.bits ≠ 3 := by cases m <;> decide

theorem Block.inv_zero (vw lw : Nat) : (Block.zero vw lw).Inv where
  idle_out _ := rfl
  config_mode _ := ⟨rfl, rfl, rfl⟩
  res_legal := Res.bits_ne_three _
  relmode_legal := RelMode.bits_ne_three _
  hold_matched h := nomatch h

/-- In configuration mode a write leaves STATE, OUT and RES at their idle values; in run mode it is locked out. -/
theorem Block.Inv.regWrite (h : b.Inv) (idx : RegIndex) (d : BitVec vw) : (b.regWrite idx d).Inv := by
  by_cases hen : b.en = true
  · rw [b.regWrite_locked idx d hen]; exact h
  · obtain ⟨hfsm, hout, hres⟩ := h.config_mode (by simpa using hen)
    obtain ⟨wfsm, wres, -, wout⟩ := b.regWrite_sequencing idx d
    exact {
      idle_out := fun _ => wout.trans hout
      config_mode := fun _ => ⟨wfsm.trans hfsm, wout.trans hout, wres.trans hres⟩
      res_legal := Res.bits_ne_three _
      relmode_legal := RelMode.bits_ne_three _
      hold_matched := fun hh => by simp [wfsm, hfsm] at hh }

theorem Block.inv_emit (hen : b.en = true) (x : Slot) : (b.emit x).Inv where
  idle_out h := by simp at h
  config_mode h := by simp [hen] at h
  res_legal := Res.bits_ne_three _
  relmode_legal := RelMode.bits_ne_three _
  hold_matched _ := by simp

theorem Block.Inv.noMatch (h : b.Inv) (hen : b.en = true) (hf : b.fsm = .idle) : b.noMatch.Inv where
  idle_out _ := h.idle_out hf
  config_mode he := by simp [hen] at he
  res_legal := Res.bits_ne_three _
  relmode_legal := RelMode.bits_ne_three _
  hold_matched hh := by simp [hf] at hh

theorem Block.inv_release (hen : b.en = true) : b.release.Inv where
  idle_out _ := rfl
  config_mode he := by simp [hen] at he
  res_legal := Res.bits_ne_three _
  relmode_legal := RelMode.bits_ne_three _
  hold_matched hh := by simp at hh

end Invariants

/-- Every event keeps the invariants where its condition holds: a dispatch cycle runs in run mode and IDLE only. -/
theorem EventLeaves.keeps_inv {s : State} {b : Block s.params.voltBits s.params.levelBits} {e : Instr}
    (h : EventLeaves s b e) (hsel : s.block.Selects s.inputs e) (hinv : s.block.Inv) : b.Inv := by
  cases e with
  | reset => cases h; exact Block.inv_zero _ _
  | cfgwr => cases h; exact hinv.regWrite _ _
  | nop => cases h; exact hinv
  | tickoff => cases h; exact hinv
  | hold => cases h; exact hinv
  | emitA =>
    obtain ⟨-, hen, -⟩ := hsel
    obtain ⟨k, -, rfl⟩ := h
    exact Block.inv_emit hen _
  | emitB =>
    obtain ⟨-, hen, -⟩ := hsel
    obtain ⟨k, -, rfl⟩ := h
    exact Block.inv_emit hen _
  | noact =>
    obtain ⟨-, hen, hf, -⟩ := hsel
    cases h; exact hinv.noMatch hen hf
  | release =>
    obtain ⟨-, hen, -⟩ := hsel
    cases h; exact Block.inv_release hen

/-- A clock edge keeps the invariants. -/
theorem StepsTo.keeps_inv {s : State} {b : Block s.params.voltBits s.params.levelBits} (h : StepsTo s b)
    (hinv : s.block.Inv) : b.Inv :=
  h.leaves.keeps_inv (State.event_eq_iff.mp rfl) hinv

theorem step_keeps_inv {s t : State} (hinv : s.block.Inv) (h : step s = .next t) : t.block.Inv := by
  obtain ⟨b, rfl, -, hb⟩ := step_next_cases h
  exact hb.keeps_inv (State.event_eq_iff.mp rfl) hinv

/-- A clock with `rst` leaves every register at 0. -/
theorem stepsTo_zero_of_rst {s : State} (h : s.inputs.rst = true) :
    s.event = .reset ∧ StepsTo s (Block.zero s.params.voltBits s.params.levelBits) := by
  have he : s.event = .reset := State.event_eq_iff.mpr h
  exact ⟨he, StepsTo.of_exec (by rw [he]; rfl)⟩

/-- A run of any length goes on and keeps the invariants, one clock edge and one listed input after the other. -/
theorem runSteps_keeps_inv (p : Params) (n : Nat) : ∀ (b : Block p.voltBits p.levelBits)
    (tr : List (Inputs p.adcBits p.voltBits)) (k : Nat), b.Inv →
    ∃ b', runSteps n (State.mk' p b tr k) = .next (State.mk' p b' (tr.drop n) (k + n)) ∧ b'.Inv := by
  induction n with
  | zero => exact fun b tr k hb => ⟨b, rfl, hb⟩
  | succ n ih =>
    intro b tr k hb
    obtain ⟨c, hc⟩ := exists_stepsTo (State.mk' p b tr k)
    obtain ⟨b', hrun, hb'⟩ := ih c tr.tail (k + 1) (hc.keeps_inv hb)
    refine ⟨b', ?_, hb'⟩
    calc runSteps (n + 1) (State.mk' p b tr k)
        = runSteps n (State.mk' p c tr.tail (k + 1)) := runSteps_succ n hc
      _ = .next (State.mk' p b' (tr.tail.drop n) (k + 1 + n)) := hrun
      _ = .next (State.mk' p b' (tr.drop (n + 1)) (k + (n + 1))) := by
        rw [List.drop_tail, Nat.add_assoc, Nat.add_comm 1 n]

/-! RES and SLOT are read by no event (10_state.md R15). -/

section Flags

variable {vw lw : Nat}

/-- The registers with other values of RES and SLOT. -/
def Block.withFlags (b : Block vw lw) (r : Res) (sl : Slot) : Block vw lw := { b with res := r, slot := sl }

theorem Block.regWrite_withFlags (b : Block vw lw) (r : Res) (sl : Slot) (idx : RegIndex) (d : BitVec vw) :
    (b.withFlags r sl).regWrite idx d = (b.regWrite idx d).withFlags r sl := by
  unfold Block.regWrite
  split
  · rfl
  · have hen : (b.withFlags r sl).en = b.en := rfl
    rw [hen]
    split
    · rfl
    · unfold Block.writeUnlocked
      split <;> rfl

/-- The event is selected without a look at RES and SLOT. -/
theorem State.event_withFlags (p : Params) (b : Block p.voltBits p.levelBits)
    (tr : List (Inputs p.adcBits p.voltBits)) (k : Nat) (r : Res) (sl : Slot) :
    (State.mk' p (b.withFlags r sl) tr k).event = (State.mk' p b tr k).event := rfl

/-- From other values of RES and SLOT an event leaves the same registers but for RES and SLOT. -/
theorem EventLeaves.withFlags {p : Params} {b b' : Block p.voltBits p.levelBits}
    {tr : List (Inputs p.adcBits p.voltBits)} {k : Nat} {e : Instr} (h : EventLeaves (State.mk' p b tr k) b' e)
    (r : Res) (sl : Slot) :
    ∃ r' sl', EventLeaves (State.mk' p (b.withFlags r sl) tr k) (b'.withFlags r' sl') e := by
  cases e with
  | reset => cases h; exact ⟨_, _, rfl⟩
  | cfgwr => cases h; exact ⟨r, sl, (b.regWrite_withFlags r sl _ _).symm⟩
  | nop => cases h; exact ⟨r, sl, rfl⟩
  | tickoff => cases h; exact ⟨r, sl, rfl⟩
  | emitA => obtain ⟨j, hj, rfl⟩ := h; exact ⟨_, _, j, hj, rfl⟩
  | emitB => obtain ⟨j, hj, rfl⟩ := h; exact ⟨_, _, j, hj, rfl⟩
  | noact => cases h; exact ⟨_, sl, rfl⟩
  | hold => cases h; exact ⟨r, sl, rfl⟩
  | release => cases h; exact ⟨r, sl, rfl⟩

end Flags

/-! The obligations of the family. -/

/-- Settles O18: `step_keeps_inv` event by event, RESET from any registers, and the lock with the frame of every event but
RESET. -/
theorem invariantsHoldAfterEveryEvent : Obligations.InvariantsHoldAfterEveryEvent := by
  unfold Obligations.InvariantsHoldAfterEveryEvent
  refine ⟨fun s t => step_keeps_inv, fun s hrst => ?_, fun s hen hrst => ?_⟩
  · obtain ⟨-, hz⟩ := stepsTo_zero_of_rst hrst
    exact ⟨_, hz, Block.inv_zero _ _⟩
  · obtain ⟨b, hb⟩ := exists_stepsTo s
    have hne : s.event ≠ .reset := fun he => by
      have hr : s.inputs.rst = true := State.event_eq_iff.mp he
      simp [hrst] at hr
    obtain ⟨hbe, hrec⟩ := hb.leaves.keeps_record hne fun _ => hen
    exact ⟨b, hb, hbe.trans hen, hrec⟩

/-- The row of the transition table whose condition holds (10_state.md R32). -/
theorem Block.Selects.row {s : State} {e : Instr} (h : s.block.Selects s.inputs e) :
    s.event = e ∧ ∃ b, StepsTo s b ∧ b.fsm = fsmAfter s.block.fsm e := by
  obtain ⟨he, b, hb, hl⟩ := h.steps
  exact ⟨he, b, hb, hl.fsm_eq⟩

/-- Settles O17: each row is the selected event's row, and the unreachable pair contradicts R28 item 2. -/
theorem stateTransitionTable : Obligations.StateTransitionTable := by
  unfold Obligations.StateTransitionTable
  refine ⟨fun s => ⟨fun h => ?reset, fun h h' => ?cfgwr, fun h => ?nop, fun h hen => ?tickoff,
    fun h hen hf => ⟨fun i ha => ?emitA, fun j ha hb => ?emitB, fun ha hb => ?noact⟩,
    fun h hen hf => ⟨fun hh => ?hold, fun hh => ?release⟩⟩, ?unreachable⟩
  case reset => exact Block.Selects.row (e := .reset) h
  case cfgwr => exact Block.Selects.row (e := .cfgwr) ⟨h, h'⟩
  case nop => exact Block.Selects.row (e := .nop) h
  case tickoff => exact Block.Selects.row (e := .tickoff) ⟨h, hen⟩
  case emitA => exact Block.Selects.row (e := .emitA) ⟨h, hen, hf, i, ha⟩
  case emitB => exact Block.Selects.row (e := .emitB) ⟨h, hen, hf, ha, j, hb⟩
  case noact => exact hf ▸ Block.Selects.row (e := .noact) ⟨h, hen, hf, ha, hb⟩
  case hold => exact hf ▸ Block.Selects.row (e := .hold) ⟨h, hen, hf, hh⟩
  case release => exact Block.Selects.row (e := .release) ⟨h, hen, hf, hh⟩
  case unreachable =>
    rintro s t hinv hst ⟨hen, hhold⟩
    obtain ⟨hidle, -⟩ := (step_keeps_inv hinv hst).config_mode hen
    simp [hhold] at hidle

/-- Settles O20: the reset state meets the invariants, and runs keep them. -/
theorem runsFromResetKeepTheInvariants : Obligations.RunsFromResetKeepTheInvariants := by
  unfold Obligations.RunsFromResetKeepTheInvariants
  exact fun p tr k n => runSteps_keeps_inv p n _ tr k (Block.inv_zero _ _)

/-- A configuration write changes EN only to 1. -/
theorem Block.regWrite_en_of_ne {vw lw : Nat} {b : Block vw lw} {idx : RegIndex} {d : BitVec vw}
    (h : (b.regWrite idx d).en ≠ b.en) : (b.regWrite idx d).en = true := by
  rw [Block.regWrite_en] at h ⊢
  cases hen : b.en with
  | true => rfl
  | false => simpa [hen] using h

/-- Settles O22: each event's rule writes only the registers whose row names the event; a write while EN = 1 is locked
out. -/
theorem registersAreWrittenOnlyByTheirEvents : Obligations.RegistersAreWrittenOnlyByTheirEvents := by
  unfold Obligations.RegistersAreWrittenOnlyByTheirEvents
  intro s b hstep
  have hl : EventLeaves s b s.event := hstep.leaves
  generalize s.event = e at hl ⊢
  cases e with
  | reset => simp
  | cfgwr =>
    have hlocked : ¬SameRecord s.block b → s.block.en = false := fun hne =>
      Bool.eq_false_iff.mpr fun hen => hne (hl.keeps_record (by decide) fun _ => hen).2
    obtain ⟨hfsm, hres, hslot, hout⟩ := s.block.regWrite_sequencing s.inputs.cfgIdx s.inputs.cfgWdata
    cases hl
    exact ⟨fun h => absurd hfsm h, fun h => absurd hres h, fun h => absurd hslot h, fun h => absurd hout h,
      fun h => .inl ⟨rfl, Block.regWrite_en_of_ne h⟩, fun h => .inl ⟨rfl, hlocked h⟩⟩
  | nop => cases hl; simp [SameRecord]
  | tickoff => cases hl; simp [SameRecord]
  | emitA => obtain ⟨k, -, rfl⟩ := hl; simp [SameRecord]
  | emitB => obtain ⟨k, -, rfl⟩ := hl; simp [SameRecord]
  | noact => cases hl; simp [SameRecord]
  | hold => cases hl; simp [SameRecord]
  | release => cases hl; simp [SameRecord]

/-- Settles O23: RES and SLOT as the rule of each event leaves them. -/
theorem flagsAfterEachEvent : Obligations.FlagsAfterEachEvent := by
  unfold Obligations.FlagsAfterEachEvent
  intro s b hstep
  have hl : EventLeaves s b s.event := hstep.leaves
  generalize s.event = e at hl ⊢
  cases e with
  | reset => cases hl; exact ⟨rfl, rfl⟩
  | cfgwr =>
    obtain ⟨-, hres, hslot, -⟩ := s.block.regWrite_sequencing s.inputs.cfgIdx s.inputs.cfgWdata
    cases hl; exact ⟨hres, hslot⟩
  | nop => cases hl; exact ⟨rfl, rfl⟩
  | tickoff => cases hl; exact ⟨rfl, rfl⟩
  | emitA => obtain ⟨k, hk, rfl⟩ := hl; exact ⟨rfl, k, hk, slotOf_a_toNat k⟩
  | emitB => obtain ⟨k, hk, rfl⟩ := hl; exact ⟨rfl, k, hk, slotOf_b_toNat k⟩
  | noact => cases hl; exact ⟨rfl, rfl⟩
  | hold => cases hl; exact ⟨rfl, rfl⟩
  | release => cases hl; exact ⟨rfl, rfl⟩

/-- A clock edge looks neither at the inputs of later clocks nor at the number of the edge (10_state.md R27): the selected
event and its rule read the registers and the current inputs only. -/
theorem StepsTo.of_same_clock {p : Params} {b b' : Block p.voltBits p.levelBits} {i : Inputs p.adcBits p.voltBits}
    {tr : List (Inputs p.adcBits p.voltBits)} {k : Nat} (h : StepsTo (State.mk' p b (i :: tr) k) b')
    (tr' : List (Inputs p.adcBits p.voltBits)) (k' : Nat) : StepsTo (State.mk' p b (i :: tr') k') b' :=
  stepsTo_iff_leaves.mpr h.leaves

/-- Settles O51: the registers left when no later input is listed are left in every case. -/
theorem noHiddenState : Obligations.NoHiddenState := by
  unfold Obligations.NoHiddenState
  intro p b i
  obtain ⟨b', hb'⟩ := exists_stepsTo (State.mk' p b [i] 0)
  exact ⟨b', fun tr k => hb'.of_same_clock tr k⟩

/-- Settles O52: the same event is selected, and its rule commutes with other values of RES and SLOT. -/
theorem flagsAreReadByNoEvent : Obligations.FlagsAreReadByNoEvent := by
  unfold Obligations.FlagsAreReadByNoEvent
  intro p b b' i tr k r sl hstep
  have hl : EventLeaves (State.mk' p b (i :: tr) k) b' (State.mk' p b (i :: tr) k).event := StepsTo.leaves hstep
  obtain ⟨r', sl', hl'⟩ := hl.withFlags r sl
  rw [← State.event_withFlags p b (i :: tr) k r sl] at hl'
  exact ⟨r', sl', stepsTo_iff_leaves.mpr hl'⟩

/-- Settles O7: RESET's rule is `Block.zero`, and `rst` alone selects it. -/
theorem resetClearsEveryRegister : Obligations.ResetClearsEveryRegister := by
  unfold Obligations.ResetClearsEveryRegister
  exact fun s => ⟨EventLeaves.exec_eq (e := .reset) rfl, stepsTo_zero_of_rst⟩

/-- Settles O19: the registers of the reset state are `Block.zero`. -/
theorem resetStateMeetsTheInvariants : Obligations.ResetStateMeetsTheInvariants := by
  unfold Obligations.ResetStateMeetsTheInvariants
  exact fun p => ⟨rfl, Block.inv_zero _ _, Block.inv_zero _ _⟩

/-- Settles O38: the copies and the classifications are read off the definition, the decode output off `encd`. -/
theorem outputsShowStateAndQueries : Obligations.OutputsShowStateAndQueries := by
  unfold Obligations.OutputsShowStateAndQueries
  intro n vw lw b i
  refine ⟨rfl, Fsm.bits_eq_one_iff, rfl, rfl, rfl, rfl, ofBool_eq_one_iff, ofBool_eq_one_iff, fun s hs => ?some,
    fun hnone => ?none, rfl⟩
  case some => simpa only [Block.outputs, hs] using encd_some_fields s
  case none => simp [Block.outputs, hnone, encd]

end Sys2Proof.Machine

/-! SUPPORT. The proofs of the family 20_memory.md: what a read of an index shows, and what one write changes of it.
Reads and writes are stated register by register; `regOfIndex` says which register an index names. -/

namespace Sys2Proof.Machine

/-! The index space (10_state.md R23). -/

/-- A register is named by its own index and by no other. -/
theorem index_of_regOfIndex {idx : RegIndex} {r : Reg} (h : regOfIndex idx = some r) : r.index = idx := by
  have hall : ∀ idx : RegIndex, ∀ r ∈ regOfIndex idx, r.index = idx := by decide
  exact hall idx r h

theorem regOfIndex_inj {i j : RegIndex} {r : Reg} (hi : regOfIndex i = some r) (hj : regOfIndex j = some r) : i = j :=
  (index_of_regOfIndex hi).symm.trans (index_of_regOfIndex hj)

theorem regOfIndex_trig (k : Slot) : regOfIndex (0x08 + k.setWidth 5) = some (.trig k) := by revert k; decide

theorem regOfIndex_act (k : Slot) : regOfIndex (0x10 + k.setWidth 5) = some (.act k) := by revert k; decide

theorem exists_regOfIndex_trig {idx : RegIndex} :
    0x08 ≤ idx ∧ idx ≤ 0x0F → ∃ k, regOfIndex idx = some (.trig k) := by
  revert idx; decide

theorem exists_regOfIndex_act {idx : RegIndex} :
    0x10 ≤ idx ∧ idx ≤ 0x17 → ∃ k, regOfIndex idx = some (.act k) := by
  revert idx; decide

theorem regOfIndex_reserved {idx : RegIndex} : idx = 0x07 ∨ 0x18 ≤ idx → regOfIndex idx = none := by
  revert idx; decide

/-- The part of the parameters' constraints that the index space needs (00_scope.md R4). -/
theorem widths_of_params_wf {p : Params} (h : p.wf = true) : 8 ≤ p.voltBits ∧ p.levelBits ≤ p.voltBits := by
  simp only [Params.wf, Bool.and_eq_true, decide_eq_true_eq] at h
  omega

section Registers

variable {vw lw : Nat} {b : Block vw lw}

/-! Reads (20_memory.md R42). -/

/-- What a read shows of a register: its bits, zero-extended to VW. -/
def Block.readReg (b : Block vw lw) : Reg → BitVec vw
  | .ctrl => b.ctrlWord.setWidth vw
  | .status => b.statusWord.setWidth vw
  | .vref => b.vref
  | .floor => b.floor
  | .tol => b.tol
  | .wiremap => b.wiremap.setWidth vw
  | .out => b.out.setWidth vw
  | .trig k => readSlot b.trig k
  | .act k => (readSlot b.act k).setWidth vw

theorem Block.regRead_of_reg {idx : RegIndex} {r : Reg} (h : regOfIndex idx = some r) :
    b.regRead idx = b.readReg r := by
  unfold Block.regRead
  rw [h]
  cases r <;> rfl

theorem Block.regRead_of_reserved {idx : RegIndex} (h : regOfIndex idx = none) : b.regRead idx = 0 := by
  unfold Block.regRead
  rw [h]

/-- CTRL as a number: RELMODE above EN (10_state.md R16). -/
theorem Block.ctrlWord_toNat (b : Block vw lw) : b.ctrlWord.toNat = 2 * b.relmode.bits.toNat + b.en.toNat := by
  unfold Block.ctrlWord
  cases b.relmode <;> cases b.en <;> rfl

/-- STATUS as a number: SLOT above RES above STATE (10_state.md R17). -/
theorem Block.statusWord_toNat (b : Block vw lw) :
    b.statusWord.toNat = 8 * b.slot.toNat + 2 * b.res.bits.toNat + b.fsm.bits.toNat := by
  have hall : ∀ (k : BitVec 3) (r : BitVec 2) (f : BitVec 1),
      (k ++ r ++ f).toNat = 8 * k.toNat + 2 * r.toNat + f.toNat := by decide
  exact hall _ _ _

/-! Writes in configuration mode (45_host_events.md R110, 20_memory.md R41). -/

/-- What a write in configuration mode does to the register it names. -/
def Block.writeReg (b : Block vw lw) (d : BitVec vw) : Reg → Block vw lw
  | .ctrl => b.writeCtrl d
  | .status => b
  | .vref => { b with vref := d }
  | .floor => { b with floor := d }
  | .tol => { b with tol := d }
  | .wiremap => { b with wiremap := d.setWidth 8 }
  | .out => b
  | .trig k => { b with trig := writeSlot b.trig k d }
  | .act k => { b with act := writeSlot b.act k (d.setWidth lw) }

theorem Block.writeUnlocked_of_reg {idx : RegIndex} {r : Reg} (h : regOfIndex idx = some r) (hr : r ≠ .ctrl)
    (d : BitVec vw) : b.writeUnlocked idx d = b.writeReg d r := by
  unfold Block.writeUnlocked
  rw [h]
  cases r with
  | ctrl => exact absurd rfl hr
  | _ => rfl

theorem Block.writeUnlocked_of_reserved {idx : RegIndex} (h : regOfIndex idx = none) (d : BitVec vw) :
    b.writeUnlocked idx d = b := by
  unfold Block.writeUnlocked
  rw [h]

theorem Block.regWrite_of_reg (hen : b.en = false) {idx : RegIndex} {r : Reg} (h : regOfIndex idx = some r)
    (d : BitVec vw) : b.regWrite idx d = b.writeReg d r := by
  unfold Block.regWrite
  by_cases h0 : idx = 0x00
  · subst h0
    cases h
    rfl
  · have hr : r ≠ .ctrl := by
      rintro rfl
      exact h0 (index_of_regOfIndex h).symm
    rw [if_neg h0, if_neg (by simp [hen]), Block.writeUnlocked_of_reg h hr]

/-- A write to a reserved index is ignored, in both modes. -/
theorem Block.regWrite_of_reserved {idx : RegIndex} (h : regOfIndex idx = none) (d : BitVec vw) :
    b.regWrite idx d = b := by
  have h0 : idx ≠ 0x00 := by
    rintro rfl
    exact absurd h (by decide)
  rw [Block.regWrite, if_neg h0, Block.writeUnlocked_of_reserved h, ite_self]

/-! A read after a write. -/

/-- A write to one register is not seen in any other: slots of one register file are apart, and any other register is a
field of its own. -/
theorem Block.readReg_writeReg_of_ne {q r : Reg} (h : q ≠ r) (d : BitVec vw) :
    (b.writeReg d r).readReg q = b.readReg q := by
  cases r with
  | status => rfl
  | out => rfl
  | trig k =>
    cases q with
    | trig j => exact readSlot_writeSlot_ne _ _ _ _ fun hjk => h (congrArg Reg.trig hjk)
    | _ => rfl
  | act k =>
    cases q with
    | act j => exact congrArg (BitVec.setWidth vw) (readSlot_writeSlot_ne _ _ _ _ fun hjk => h (congrArg Reg.act hjk))
    | _ => rfl
  | _ => cases q <;> trivial

/-- One write changes the read of no other index, in both modes (20_memory.md R44). -/
theorem Block.regRead_regWrite_of_ne (b : Block vw lw) {i j : RegIndex} (h : j ≠ i) (d : BitVec vw) :
    (b.regWrite i d).regRead j = b.regRead j := by
  cases hen : b.en with
  | true => rw [b.regWrite_locked i d hen]
  | false =>
    cases hi : regOfIndex i with
    | none => rw [Block.regWrite_of_reserved hi]
    | some r =>
      cases hj : regOfIndex j with
      | none => rw [Block.regRead_of_reserved hj, Block.regRead_of_reserved hj]
      | some q =>
        have hqr : q ≠ r := by
          rintro rfl
          exact h (regOfIndex_inj hj hi)
        rw [Block.regWrite_of_reg hen hi, Block.regRead_of_reg hj, Block.regRead_of_reg hj,
          Block.readReg_writeReg_of_ne hqr]

/-- In configuration mode a read of the written index shows the register just written. -/
theorem Block.regRead_regWrite_self (hen : b.en = false) {idx : RegIndex} {r : Reg} (h : regOfIndex idx = some r)
    (d : BitVec vw) : (b.regWrite idx d).regRead idx = (b.writeReg d r).readReg r := by
  rw [Block.regRead_of_reg h, Block.regWrite_of_reg hen h]

/-- A release mode other than 3 is held in the bits it was written in (30_encoding.md R58). -/
theorem RelMode.bits_ofBits {x : BitVec 2} (hx : x ≠ 3) (m : RelMode) : ((RelMode.ofBits x).getD m).bits = x := by
  match x with
  | 0 => rfl
  | 1 => rfl
  | 2 => rfl
  | 3 => exact absurd rfl hx

/-- In configuration mode a write to CTRL with a legal RELMODE stores the low three bits of the data. -/
theorem Block.writeCtrl_ctrlWord_toNat (hen : b.en = false) {d : BitVec vw} (hd : d.extractLsb' 1 2 ≠ 3) :
    (b.writeCtrl d).ctrlWord.toNat = d.toNat % 8 := by
  have hmode : (b.writeCtrl d).relmode.bits.toNat = d.toNat / 2 % 4 := by
    simp [Block.writeCtrl, hen, RelMode.bits_ofBits hd, Nat.shiftRight_eq_div_pow]
  have hbit : (b.writeCtrl d).en.toNat = d.toNat % 2 := by
    rw [Block.writeCtrl_en, hen, Bool.false_or, ← BitVec.testBit_toNat, Nat.toNat_testBit, pow_zero, Nat.div_one]
  rw [Block.ctrlWord_toNat, hmode, hbit]
  omega

end Registers

/-! The obligations of the family. -/

/-- Settles O41: the write is RegWrite of the index on the port, which `Block.regRead_regWrite_of_ne` keeps apart. -/
theorem writeLeavesOtherIndices : Obligations.WriteLeavesOtherIndices := by
  unfold Obligations.WriteLeavesOtherIndices
  exact fun s => ⟨_, EventLeaves.exec_eq (e := .cfgwr) rfl, fun _ hj => s.block.regRead_regWrite_of_ne hj _⟩

/-- Settles O40: the index on the port names a register or is reserved; the register then holds the data truncated to
its width, and a read extends it back to VW bits without loss. -/
theorem writeThenReadTruncates : Obligations.WriteThenReadTruncates := by
  unfold Obligations.WriteThenReadTruncates
  intro s hwf hen
  obtain ⟨hvw, hlw⟩ := widths_of_params_wf hwf
  have hread := fun r (h : regOfIndex s.inputs.cfgIdx = some r) =>
    Block.regRead_regWrite_self hen h s.inputs.cfgWdata
  refine ⟨_, EventLeaves.exec_eq (e := .cfgwr) rfl, fun h0 hm => ?ctrl, ?voltage, fun h5 => ?wiremap,
    fun hlo hhi => ?act, ?ignored, fun h => ?reserved⟩
  case ctrl =>
    rw [h0] at hread ⊢
    rw [hread .ctrl rfl, Block.readReg, BitVec.toNat_setWidth_of_le (by omega)]
    exact Block.writeCtrl_ctrlWord_toNat hen hm
  case voltage =>
    rintro (h2 | h3 | h4 | htrig)
    · exact hread .vref (by rw [h2]; rfl)
    · exact hread .floor (by rw [h3]; rfl)
    · exact hread .tol (by rw [h4]; rfl)
    · obtain ⟨k, hk⟩ := exists_regOfIndex_trig htrig
      rw [hread _ hk]
      exact readSlot_writeSlot_self _ _ _
  case wiremap =>
    rw [h5] at hread ⊢
    rw [hread .wiremap rfl, Block.readReg, BitVec.toNat_setWidth_of_le hvw]
    exact BitVec.toNat_setWidth _ _
  case act =>
    obtain ⟨k, hk⟩ := exists_regOfIndex_act ⟨hlo, hhi⟩
    rw [hread _ hk, Block.readReg, BitVec.toNat_setWidth_of_le hlw, Block.writeReg, readSlot_writeSlot_self]
    exact BitVec.toNat_setWidth _ _
  case ignored =>
    rintro (h1 | h6)
    · have hstatus : regOfIndex s.inputs.cfgIdx = some .status := by rw [h1]; rfl
      rw [hread _ hstatus, Block.regRead_of_reg hstatus]
      rfl
    · have hout : regOfIndex s.inputs.cfgIdx = some .out := by rw [h6]; rfl
      rw [hread _ hout, Block.regRead_of_reg hout]
      rfl
  case reserved => exact Block.regRead_of_reserved (regOfIndex_reserved h)

/-- Settles O39: each index names its register, and VW bits hold a zero-extended one whole. -/
theorem regReadMap : Obligations.RegReadMap := by
  unfold Obligations.RegReadMap
  intro vw lw b hvw
  refine ⟨?ctrl, ?status, rfl, rfl, rfl, ?wiremap, fun hlw => ?out, fun k => ?trig, fun k hlw => ?act, rfl,
    fun idx h => ?reserved⟩
  case ctrl => exact (BitVec.toNat_setWidth_of_le (by omega)).trans b.ctrlWord_toNat
  case status => exact (BitVec.toNat_setWidth_of_le (by omega)).trans b.statusWord_toNat
  case wiremap => exact BitVec.toNat_setWidth_of_le hvw
  case out => exact BitVec.toNat_setWidth_of_le hlw
  case trig => exact Block.regRead_of_reg (regOfIndex_trig k)
  case act =>
    rw [Block.regRead_of_reg (regOfIndex_act k)]
    exact BitVec.toNat_setWidth_of_le hlw
  case reserved => exact Block.regRead_of_reserved (regOfIndex_reserved (.inr h))

end Sys2Proof.Machine

/-! SUPPORT. The proofs of the family 30_encoding.md: the event table and its encoder, the select word, a state that shows a
given word, and the lines of a trace. -/

namespace Sys2Proof.Machine

/-! The event table (30_encoding.md R55). -/

/-- A word names an event exactly when it agrees with the event's match under the event's mask: by enumeration of the
256 words, as R55 derives it. -/
theorem decode_eq_iff_masked {S : SelectWord} {i : Instr} : decode S = i ↔ S &&& eventMask i = eventMatch i := by
  cases i <;> revert S <;> decide

/-- The match of every event lies inside its mask: the family `MatchInMask` as one statement. -/
theorem matchInMask (i : Instr) : Laws.MatchInMask.Statement i := by
  cases i with
  | reset => exact Laws.MatchInMask.reset
  | cfgwr => exact Laws.MatchInMask.cfgwr
  | nop => exact Laws.MatchInMask.nop
  | tickoff => exact Laws.MatchInMask.tickoff
  | emitA => exact Laws.MatchInMask.emitA
  | emitB => exact Laws.MatchInMask.emitB
  | noact => exact Laws.MatchInMask.noact
  | hold => exact Laws.MatchInMask.hold
  | release => exact Laws.MatchInMask.release

/-- A word split by a mask and its complement is whole again. -/
theorem and_mask_or_and_not_mask {w : Nat} (S m : BitVec w) : S &&& m ||| S &&& ~~~m = S := by
  rw [← BitVec.and_or_distrib_left, BitVec.or_not_self, BitVec.and_allOnes]

theorem encode_and_mask (i : Instr) (x : SelectWord) : encode i x &&& eventMask i = eventMatch i := by
  obtain ⟨hout, -⟩ := matchInMask i
  have hin : eventMatch i &&& eventMask i = eventMatch i := by
    simpa [hout] using and_mask_or_and_not_mask (eventMatch i) (eventMask i)
  rw [encode, BitVec.and_or_distrib_right, hin, BitVec.and_assoc, BitVec.not_and_self]
  simp

/-- The bits an event does not look at do not change the event. -/
theorem decode_encode (i : Instr) (x : SelectWord) : decode (encode i x) = i :=
  decode_eq_iff_masked.mpr (encode_and_mask i x)

/-- A word is its event's match with the word's own bits outside the mask. -/
theorem encode_decode (S : SelectWord) : encode (decode S) S = S := by
  have hmatch : S &&& eventMask (decode S) = eventMatch (decode S) := decode_eq_iff_masked.mp rfl
  rw [encode, ← hmatch, and_mask_or_and_not_mask]

/-- One 8-bit word of the table is one select word. -/
theorem decodeTableWord_toNat (S : SelectWord) : decodeTableWord 8 S.toNat = some (decode S) := by
  simp [decodeTableWord, wordsOf, decodeWords]

theorem regOfIndex_index (r : Reg) : regOfIndex r.index = some r := by
  cases r with
  | trig k => revert k; decide
  | act k => revert k; decide
  | _ => rfl

/-! The select word, bit by bit (30_encoding.md R55). -/

/-- A word written out from bit 7 down to bit 0 has those bits. -/
theorem getLsbD_of_bits (b7 b6 b5 b4 b3 b2 b1 b0 : Bool) (S : SelectWord)
    (hS : S = BitVec.ofBool b7 ++ BitVec.ofBool b6 ++ BitVec.ofBool b5 ++ BitVec.ofBool b4 ++ BitVec.ofBool b3
      ++ BitVec.ofBool b2 ++ BitVec.ofBool b1 ++ BitVec.ofBool b0) :
    S.getLsbD 7 = b7 ∧ S.getLsbD 6 = b6 ∧ S.getLsbD 5 = b5 ∧ S.getLsbD 4 = b4 ∧ S.getLsbD 3 = b3
      ∧ S.getLsbD 2 = b2 ∧ S.getLsbD 1 = b1 ∧ S.getLsbD 0 = b0 := by
  subst hS
  revert b7 b6 b5 b4 b3 b2 b1 b0
  decide

/-- A word is its eight bits. -/
theorem eq_bits (S : SelectWord) :
    S = BitVec.ofBool (S.getLsbD 7) ++ BitVec.ofBool (S.getLsbD 6) ++ BitVec.ofBool (S.getLsbD 5)
      ++ BitVec.ofBool (S.getLsbD 4) ++ BitVec.ofBool (S.getLsbD 3) ++ BitVec.ofBool (S.getLsbD 2)
      ++ BitVec.ofBool (S.getLsbD 1) ++ BitVec.ofBool (S.getLsbD 0) := by
  revert S; decide

/-- The top bit of an encoded classification says whether there is one (30_encoding.md R59). -/
theorem enc_getLsbD_two (x : Option Idx) : (enc x).getLsbD 2 = x.isSome := by
  cases x with
  | none => rfl
  | some i => revert i; decide

theorem enc_some_toNat (i : Idx) : (enc (some i)).toNat = 4 + i.toNat := by revert i; decide

theorem encd_some_toNat (s : Slot) : (encd (some s)).toNat = 8 + s.toNat := by revert s; decide

/-- The values 1 to 3 are never produced. -/
theorem enc_never (x : Option Idx) : enc x ≠ 1 ∧ enc x ≠ 2 ∧ enc x ≠ 3 := by
  cases x with
  | none => decide
  | some i => revert i; decide

section SelectWord

variable {n vw lw : Nat}

theorem Block.selectWord_eq_bits (b : Block vw lw) (i : Inputs n vw) :
    b.selectWord i = BitVec.ofBool i.rst ++ BitVec.ofBool i.cfgWe ++ BitVec.ofBool i.tick ++ BitVec.ofBool b.en
      ++ BitVec.ofBool (decide (b.fsm = .hold)) ++ BitVec.ofBool (b.clsA i).isSome
      ++ BitVec.ofBool (b.clsB i).isSome ++ BitVec.ofBool (b.holdBit i) := by
  rw [Block.selectWord, Fsm.bits_eq_ofBool]

/-! A block made to show a word (log entry 10). -/

/-- The bit of the select word that says whether a wire matches: `mA` or `mB`. -/
def matchBit : Wire → Nat
  | .a => 2
  | .b => 1

/-- Both wires of the construction read full scale with VREF = 1, which is one voltage unit. -/
def unitVoltage (n : Nat) : Voltage := { num := fullScale n, den := fullScale n }

theorem unitVoltage_den_pos (hn : 1 ≤ n) : 0 < (unitVoltage n).den :=
  Nat.sub_pos_of_lt (Nat.one_lt_two_pow (by omega))

theorem volt_allOnes_one (hvw : 1 ≤ vw) : volt (BitVec.allOnes n) (1 : BitVec vw) = unitVoltage n := by
  have h1 : 1 % 2 ^ vw = 1 := Nat.mod_eq_of_lt (Nat.one_lt_two_pow (by omega))
  simp [volt, unitVoltage, fullScale, h1]

/-- The value 2 of FLOOR and of a trigger that is set fits a register of two bits or more. -/
theorem toNat_ite_two (hvw : 2 ≤ vw) (c : Bool) :
    (if c then 2 else 0 : BitVec vw).toNat = if c then 2 else 0 := by
  have h2 : 2 < 2 ^ vw := Nat.lt_of_lt_of_le (by decide : 2 < 2 ^ 2) (Nat.pow_le_pow_right (by decide) hvw)
  cases c with
  | false => exact BitVec.toNat_zero
  | true => exact Nat.mod_eq_of_lt h2

/-- STATE made to show a bit shows it. -/
theorem fsm_of_bit (c : Bool) : decide ((if c then Fsm.hold else .idle) = .hold) = c := by cases c <;> rfl

/-- Of each wire's triggers only the third can be other than 0. -/
theorem Block.triggers_showing (hvw : 2 ≤ vw) (b : Block vw lw) (w : SelectWord) (x : Wire) :
    (b.showing w).triggers x 2 = (if w.getLsbD (matchBit x) then 2 else 0)
      ∧ ∀ k, k ≠ 2 → (b.showing w).triggers x k = 0 := by
  have h0 : (0 : BitVec vw).toNat = 0 := BitVec.toNat_zero
  rw [forall_idx]
  cases x with
  | a => exact ⟨toNat_ite_two hvw _, fun _ => h0, fun _ => h0, fun h => absurd rfl h, fun _ => h0⟩
  | b => exact ⟨toNat_ite_two hvw _, fun _ => h0, fun _ => h0, fun h => absurd rfl h, fun _ => h0⟩

/-- With every trigger but the third 0, only the window from 0 to the third can match. -/
theorem classify_isSome_of_third_trigger {v : Voltage} {f : Nat} {t : Idx → Nat} (ht : ∀ k, k ≠ 2 → t k = 0) :
    (classify v f t).isSome = decide (0 < v.num ∧ v.num < t 2 * v.den) := by
  have hneg : ¬(v.num : Int) < 0 := by omega
  rw [classify_unrolled, ht 0 (by decide), ht 1 (by decide), ht 3 (by decide)]
  simp only [Nat.cast_zero, zero_mul, hneg, and_false, if_false]
  split
  · next h => exact (decide_eq_true (by exact_mod_cast h)).symm
  · next h => exact (decide_eq_false (by exact_mod_cast h)).symm

/-- One unit lies below 2 units and not below 0. -/
theorem unitVoltage_lt_ite_two (hn : 1 ≤ n) (c : Bool) :
    (unitVoltage n).num < (if c then 2 else 0) * (unitVoltage n).den ↔ c = true := by
  have hpos : 0 < fullScale n := unitVoltage_den_pos hn
  cases c <;> simp [unitVoltage, hpos]

/-- Each wire matches exactly where its bit of the word is set. -/
theorem Block.classify_showing (hn : 1 ≤ n) (hvw : 2 ≤ vw) (b : Block vw lw) (w : SelectWord) (x : Wire) :
    (classify (unitVoltage n) (b.showing w).floor.toNat ((b.showing w).triggers x)).isSome
      = w.getLsbD (matchBit x) := by
  obtain ⟨h2, hothers⟩ := b.triggers_showing hvw w x
  have hpos : 0 < (unitVoltage n).num := unitVoltage_den_pos hn
  rw [classify_isSome_of_third_trigger hothers, h2, Bool.eq_iff_iff, decide_eq_true_iff, unitVoltage_lt_ite_two hn]
  simp [hpos]

/-- Each wire is below the floor exactly where the hold bit is set. -/
theorem Block.below_showing (hn : 1 ≤ n) (hvw : 2 ≤ vw) (b : Block vw lw) (w : SelectWord) :
    below (unitVoltage n) (b.showing w).floor.toNat = w.getLsbD 0 := by
  have hfloor : (b.showing w).floor.toNat = if w.getLsbD 0 then 2 else 0 := toNat_ite_two hvw _
  rw [below, hfloor, Bool.eq_iff_iff, Voltage.lt_iff]
  exact_mod_cast unitVoltage_lt_ite_two hn _

/-- The construction shows the word it is given. -/
theorem Block.selectWord_showing (hn : 1 ≤ n) (hvw : 2 ≤ vw) (b : Block vw lw) (w : SelectWord) :
    (b.showing w).selectWord (strobesOf n vw w) = w := by
  have hva : (b.showing w).va (strobesOf n vw w) = unitVoltage n := volt_allOnes_one (by omega)
  have hvb : (b.showing w).vb (strobesOf n vw w) = unitVoltage n := volt_allOnes_one (by omega)
  have hfsm : decide ((b.showing w).fsm = .hold) = w.getLsbD 3 := fsm_of_bit _
  have hmA : ((b.showing w).clsA (strobesOf n vw w)).isSome = w.getLsbD 2 := by
    rw [Block.clsA, hva]
    exact b.classify_showing hn hvw w .a
  have hmB : ((b.showing w).clsB (strobesOf n vw w)).isSome = w.getLsbD 1 := by
    rw [Block.clsB, hvb]
    exact b.classify_showing hn hvw w .b
  have hhold : (b.showing w).holdBit (strobesOf n vw w) = w.getLsbD 0 := by
    rw [Block.holdBit, Block.blwA, Block.blwB, hva, hvb, b.below_showing hn hvw w]
    exact Bool.or_self _
  rw [Block.selectWord_eq_bits, hfsm, hmA, hmB, hhold]
  exact (eq_bits w).symm

end SelectWord

/-- The select word of the state `withFetchWord` makes, in a block of legal parameters. -/
theorem State.withFetchWord_selectWord {s : State} (h : s.params.wf = true) (S : SelectWord) :
    (s.withFetchWord 8 S.toNat).selectWord = S := by
  simp only [Params.wf, Bool.and_eq_true, decide_eq_true_eq] at h
  obtain ⟨⟨⟨⟨hn, hvw⟩, -⟩, -⟩, -⟩ := h
  have hS : s.withFetchWord 8 S.toNat = s.showing S := by
    rw [State.withFetchWord, BitVec.ofNat_toNat, BitVec.setWidth_eq]
  rw [hS]
  exact Block.selectWord_showing hn (le_trans (by decide) hvw) s.block S

theorem State.withFetchWord_event {s : State} (h : s.params.wf = true) (S : SelectWord) :
    (s.withFetchWord 8 S.toNat).event = decode S :=
  congrArg decode (State.withFetchWord_selectWord h S)

/-! The lines of a trace (30_encoding.md R61). -/

/-- A trace with a number that does not fit its port is refused (log entry 11). -/
theorem assemble_of_not_wf {p : Params} {items : List TraceItem} (h : ∃ it ∈ items, it.wf p = false) :
    assemble p items = none := by
  obtain ⟨it, hmem, hit⟩ := h
  refine if_neg fun hall => ?_
  simp [List.all_eq_true.mp hall it hmem] at hit

theorem assemble_line {p : Params} {l : TraceLine} (h : l.wf p = true) :
    assemble p [.line l] = some [l.inputs p.adcBits p.voltBits] := by
  have hall : [TraceItem.line l].all (TraceItem.wf p) = true := by simpa [TraceItem.wf] using h
  exact if_pos hall

/-- A number that fits a port is driven on it as it stands (30_encoding.md R56). -/
theorem toNat_ofNat_of_fits {w x : Nat} (h : x < 2 ^ w) : (BitVec.ofNat w x).toNat = x := by
  rw [BitVec.toNat_ofNat, Nat.mod_eq_of_lt h]

/-! The text of a trace: comments, register names and numerals. -/

theorem uncommented_append_comment (l c : List Char) : uncommented (l ++ ';' :: c) = uncommented l := by
  unfold uncommented
  induction l with
  | nil => rfl
  | cons x xs ih => simp only [List.cons_append, List.takeWhile_cons, ih]

/-- A comment on the first line changes nothing of what the lines are read as. -/
theorem itemsOfLines_append_comment (k : Nat) (l c : List Char) (ls : List (List Char)) :
    itemsOfLines k ((l ++ ';' :: c) :: ls) = itemsOfLines k (l :: ls) := by
  simp only [itemsOfLines, wordsOfLine, uncommented_append_comment]

theorem registerNamed_name (r : Reg) : registerNamed r.name = some r := by
  cases r with
  | trig k => revert k; decide
  | act k => revert k; decide
  | _ => rfl

theorem indexOperand_name (r : Reg) : indexOperand r.name = some r.index.toNat := by
  rw [indexOperand, registerNamed_name]

theorem decDigit_of_isDigit {c : Char} (h : c.isDigit = true) : decDigit c = some (c.toNat - '0'.toNat) := by
  simp only [Char.isDigit, Bool.and_eq_true, decide_eq_true_eq] at h
  exact if_pos h

/-- Decimal digits are read as the library reads them. -/
theorem digits_decDigit {l : List Char} (h : ∀ c ∈ l, c.isDigit = true) (acc : Nat) :
    digits 10 decDigit acc l = some (Nat.ofDigitChars 10 l acc) := by
  induction l generalizing acc with
  | nil => rfl
  | cons c cs ih =>
    obtain ⟨hc, hcs⟩ := List.forall_mem_cons.mp h
    rw [digits, decDigit_of_isDigit hc, Nat.ofDigitChars_cons]
    exact ih hcs _

/-- A list of decimal digits is a decimal numeral: it does not begin with `0x`. -/
theorem numeral_of_isDigit {l : List Char} (hne : l ≠ []) (h : ∀ c ∈ l, c.isDigit = true) :
    numeral l = some (Nat.ofDigitChars 10 l 0) := by
  rw [← digits_decDigit h]
  unfold numeral
  split
  · exact absurd rfl hne
  · exact absurd (h 'x' (by simp)) (by decide)
  · rfl

/-- No register's name begins with a digit. -/
theorem registerNamed_of_isDigit {l : List Char} (hne : l ≠ []) (h : ∀ c ∈ l, c.isDigit = true) :
    registerNamed l = none := by
  unfold registerNamed
  split
  · exact absurd (h 'T' (by simp)) (by decide)
  · exact absurd (h 'A' (by simp)) (by decide)
  · refine List.lookup_eq_none_iff.mpr fun q hq => bne_iff_ne.mpr fun hl => ?_
    have hdigits : q.1.all Char.isDigit = true := hl ▸ List.all_eq_true.mpr h
    clear hl
    revert q
    decide

/-- The decimal digits of a number are read as that number, never as a register's name. -/
theorem indexOperand_toDigits (x : Nat) : indexOperand (Nat.toDigits 10 x) = some x := by
  have hdigit : ∀ c ∈ Nat.toDigits 10 x, c.isDigit = true := fun c =>
    Nat.isDigit_of_mem_toDigits (by decide) (by decide)
  rw [indexOperand, registerNamed_of_isDigit Nat.toDigits_ne_nil hdigit]
  exact (numeral_of_isDigit Nat.toDigits_ne_nil hdigit).trans (congrArg some Nat.ofDigitChars_ten_toDigits)

/-! The obligations of the family. -/

/-- Settles O5: `decode_encode` and `encode_decode` from the event table, the register index by `index_of_regOfIndex` and
`regOfIndex_index`, the fetched word by the word its state shows. -/
theorem encodeDecodeRoundTrip : Obligations.EncodeDecodeRoundTrip := by
  unfold Obligations.EncodeDecodeRoundTrip
  refine ⟨decode_encode, encode_decode, fun i x => ?table, fun r idx => ?register, fun s i x hwf => ?fetched⟩
  case table => rw [decodeTableWord_toNat, decode_encode]
  case register => exact ⟨index_of_regOfIndex, fun h => h ▸ regOfIndex_index r⟩
  case fetched => rw [State.withFetchWord_event hwf, decode_encode]

/-- Settles O6: each condition is `Block.Selects` of its event. -/
theorem prioritiesSelectTheEvent : Obligations.PrioritiesSelectTheEvent := by
  unfold Obligations.PrioritiesSelectTheEvent
  exact fun s => ⟨State.event_eq_iff, State.event_eq_iff, State.event_eq_iff, State.event_eq_iff, State.event_eq_iff,
    State.event_eq_iff, State.event_eq_iff, State.event_eq_iff, State.event_eq_iff⟩

/-- Settles O56: the shown word, the event it decodes to, and a step, which no state lacks. -/
theorem fetchWordIsShown : Obligations.FetchWordIsShown := by
  unfold Obligations.FetchWordIsShown
  exact fun s S hwf =>
    ⟨State.withFetchWord_selectWord hwf S, State.withFetchWord_event hwf S, exists_stepsTo (s.withFetchWord 8 S.toNat)⟩

/-- Settles O57: the strobes of the line select its event, its numbers fit their ports, and `assemble` accepts it. -/
theorem traceLinesDriveTheirEvents : Obligations.TraceLinesDriveTheirEvents := by
  unfold Obligations.TraceLinesDriveTheirEvents
  intro p b tr k l hwf
  refine ⟨?event, assemble_line hwf, fun items => assemble_of_not_wf⟩
  rintro s rfl
  cases l with
  | reset => exact State.event_eq_iff.mpr rfl
  | cfgwr idx v =>
    simp only [TraceLine.wf, Bool.and_eq_true, decide_eq_true_eq] at hwf
    obtain ⟨hidx, hv⟩ := hwf
    exact ⟨State.event_eq_iff.mpr ⟨rfl, rfl⟩, toNat_ofNat_of_fits hidx, toNat_ofNat_of_fits hv⟩
  | nop => exact State.event_eq_iff.mpr ⟨rfl, rfl, rfl⟩
  | tick x y =>
    simp only [TraceLine.wf, Bool.and_eq_true, decide_eq_true_eq] at hwf
    obtain ⟨hx, hy⟩ := hwf
    refine ⟨fun he => ?reset, fun he => ?cfgwr, fun he => ?nop, toNat_ofNat_of_fits hx, toNat_ofNat_of_fits hy⟩
    case reset => exact absurd (State.event_eq_iff.mp he) Bool.false_ne_true
    case cfgwr =>
      obtain ⟨-, hwe⟩ := State.event_eq_iff.mp he
      exact absurd hwe Bool.false_ne_true
    case nop =>
      obtain ⟨-, -, htick⟩ := State.event_eq_iff.mp he
      exact absurd htick Bool.noConfusion

/-- Settles O2: one closed word per pattern, read by the decoder. -/
theorem sampleWordsDecode : Obligations.SampleWordsDecode := by
  unfold Obligations.SampleWordsDecode
  exact ⟨rfl, rfl, rfl, rfl, rfl, rfl, rfl, rfl, rfl⟩

/-- Settles O3: the word is the concatenation of the eight bits, and `enc` keeps whether a wire matches in its top bit. -/
theorem selectWordIsBuiltFromItsEightBits : Obligations.SelectWordIsBuiltFromItsEightBits := by
  unfold Obligations.SelectWordIsBuiltFromItsEightBits
  intro n vw lw b i
  obtain ⟨h7, h6, h5, h4, h3, h2, h1, h0⟩ := getLsbD_of_bits _ _ _ _ _ _ _ _ _ (b.selectWord_eq_bits i)
  exact ⟨h7, h6, h5, h4, h3, h2, h1, h0, h2.trans (enc_getLsbD_two _).symm, h1.trans (enc_getLsbD_two _).symm⟩

/-- Settles O4: `decode_eq_iff_masked` with each event's row of the table written out. -/
theorem eventTableDecodes : Obligations.EventTableDecodes := by
  unfold Obligations.EventTableDecodes
  intro S i
  cases i <;> exact decode_eq_iff_masked

/-- Settles O37: the number each encoding gives, and the values `enc` leaves out. -/
theorem slotAndOptionalEncodings : Obligations.SlotAndOptionalEncodings := by
  unfold Obligations.SlotAndOptionalEncodings
  exact ⟨fun i => ⟨slotOf_a_toNat i, slotOf_b_toNat i⟩, enc_some_toNat, rfl, enc_never, encd_some_toNat, rfl⟩

/-- Settles O58: comments by `uncommented`, names by `registerNamed`, decimal indices by the digits of every number. -/
theorem traceTextReadsNamesAndComments : Obligations.TraceTextReadsNamesAndComments := by
  unfold Obligations.TraceTextReadsNamesAndComments
  refine ⟨itemsOfLines_append_comment, fun r => ⟨registerNamed_name r, indexOperand_name r⟩,
    fun idx => indexOperand_toDigits _, fun r w v hv => ?cfgwr⟩
  case cfgwr =>
    unfold itemOf
    rw [if_neg (by decide), if_pos rfl]
    simp [indexOperand_name, hv]

end Sys2Proof.Machine

/-! SUPPORT. The proofs of the family 40_voltage_sampler.md: the full-scale code, the comparisons of a voltage as
comparisons of its rational value, the linear scaling, and the floor comparator. -/

namespace Sys2Proof.Machine

/-! The full-scale code `M` (00_scope.md R4). -/

theorem fullScale_pos {n : Nat} (hn : 1 ≤ n) : 0 < fullScale n := unitVoltage_den_pos hn

/-- The truncated difference in `M = 2^N - 1` is the true one, in the integers and in the rationals. -/
theorem fullScale_cast (R : Type) [Ring R] (n : Nat) : (fullScale n : R) = 2 ^ n - 1 := by
  rw [fullScale, Nat.cast_sub Nat.one_le_two_pow]
  push_cast
  rfl

@[simp] theorem fullScale_one : fullScale 1 = 1 := rfl

/-- `M` is the greatest code. -/
theorem toNat_le_fullScale {n : Nat} (x : BitVec n) : x.toNat ≤ fullScale n :=
  Nat.le_sub_one_of_lt x.isLt

theorem fullScale_lt (n : Nat) : fullScale n < 2 ^ n :=
  Nat.sub_lt (Nat.two_pow_pos n) Nat.one_pos

/-! Each comparison decides the comparison of the rational value (40_voltage_sampler.md R72). -/

section Comparisons

variable {v : Voltage} (hden : 0 < v.den)
include hden

theorem Voltage.den_cast_pos : (0 : ℚ) < v.den := Nat.cast_pos.mpr hden

theorem Voltage.lt_iff_value (T : Int) : v.lt T = true ↔ v.value < T := by
  rw [Voltage.lt_iff, Voltage.value, div_lt_iff₀ (den_cast_pos hden)]
  norm_cast

theorem Voltage.le_iff_value (T : Int) : v.le T = true ↔ v.value ≤ T := by
  rw [Voltage.le_iff, Voltage.value, div_le_iff₀ (den_cast_pos hden)]
  norm_cast

theorem Voltage.gt_iff_value (T : Int) : v.gt T = true ↔ v.value > T := by
  rw [Voltage.gt_iff, Voltage.value, gt_iff_lt, lt_div_iff₀ (den_cast_pos hden)]
  norm_cast

theorem Voltage.ge_iff_value (T : Int) : v.ge T = true ↔ v.value ≥ T := by
  rw [Voltage.ge_iff, Voltage.value, ge_iff_le, le_div_iff₀ (den_cast_pos hden)]
  norm_cast

theorem Voltage.eq_iff_value (T : Int) : v.eq T = true ↔ v.value = T := by
  rw [Voltage.eq_iff, Voltage.value, div_eq_iff (den_cast_pos hden).ne']
  norm_cast

/-- BELOW is strict (40_voltage_sampler.md R71). -/
theorem below_iff_value (floor : Nat) : below v floor = true ↔ v.value < floor :=
  Voltage.lt_iff_value hden floor

/-- At the floor itself neither BELOW nor the first test of CLASSIFY holds. -/
theorem not_below_not_gt_of_value_eq {floor : Nat} (hv : v.value = floor) :
    below v floor = false ∧ v.gt floor = false := by
  rw [← Bool.not_eq_true, ← Bool.not_eq_true, below_iff_value hden, Voltage.gt_iff_value hden, hv]
  exact ⟨lt_irrefl _, lt_irrefl _⟩

end Comparisons

/-- No voltage lies below a floor of 0. -/
theorem below_zero (v : Voltage) : below v 0 = false := by
  rw [← Bool.not_eq_true, below, Voltage.lt_iff]
  omega

section Volt

variable {n vw : Nat}

@[simp] theorem volt_num (raw : BitVec n) (vref : BitVec vw) : (volt raw vref).num = raw.toNat * vref.toNat := rfl
@[simp] theorem volt_den (raw : BitVec n) (vref : BitVec vw) : (volt raw vref).den = fullScale n := rfl

/-! The linear scaling (40_voltage_sampler.md R70). -/

theorem volt_value (raw : BitVec n) (vref : BitVec vw) :
    (volt raw vref).value = (raw.toNat : ℚ) * vref.toNat / fullScale n := by
  rw [Voltage.value, volt_num, volt_den, Nat.cast_mul]

theorem volt_value_zero_raw (vref : BitVec vw) : (volt (0 : BitVec n) vref).value = 0 := by simp [volt_value]

theorem volt_value_zero_vref (raw : BitVec n) : (volt raw (0 : BitVec vw)).value = 0 := by simp [volt_value]

/-- Full scale reads as VREF. -/
theorem volt_value_allOnes (hn : 1 ≤ n) (vref : BitVec vw) : (volt (BitVec.allOnes n) vref).value = vref.toNat := by
  have hM : (fullScale n : ℚ) ≠ 0 := Nat.cast_ne_zero.mpr (fullScale_pos hn).ne'
  rw [volt_value, BitVec.toNat_allOnes, ← fullScale, mul_div_cancel_left₀ _ hM]

theorem volt_value_one_bit (raw : BitVec 1) (vref : BitVec vw) :
    (volt raw vref).value = (raw.toNat : ℚ) * vref.toNat := by simp [volt_value]

theorem volt_value_mono {raw raw' : BitVec n} (vref : BitVec vw) (h : raw.toNat ≤ raw'.toNat) :
    (volt raw vref).value ≤ (volt raw' vref).value := by
  rw [volt_value, volt_value]
  gcongr

theorem volt_value_strictMono (hn : 1 ≤ n) {raw raw' : BitVec n} {vref : BitVec vw} (hvref : 0 < vref.toNat)
    (h : raw.toNat < raw'.toNat) : (volt raw vref).value < (volt raw' vref).value := by
  have hM : (0 : ℚ) < fullScale n := Nat.cast_pos.mpr (fullScale_pos hn)
  have hV : (0 : ℚ) < vref.toNat := Nat.cast_pos.mpr hvref
  rw [volt_value, volt_value]
  gcongr

/-- With VREF = 0 every reading is 0, which lies below every floor but 0. -/
theorem below_volt_zero_vref (hn : 1 ≤ n) (raw : BitVec n) (floor : Nat) :
    below (volt raw (0 : BitVec vw)) floor = decide (0 < floor) := by
  rw [Bool.eq_iff_iff, decide_eq_true_iff, below_iff_value (fullScale_pos hn), volt_value_zero_vref, Nat.cast_pos]

/-! The widths of the products (40_voltage_sampler.md R72). -/

/-- The greatest product is `M * (2^VW - 1)`. -/
theorem toNat_mul_toNat_le (raw : BitVec n) (vref : BitVec vw) :
    raw.toNat * vref.toNat ≤ (2 ^ n - 1) * (2 ^ vw - 1) :=
  Nat.mul_le_mul (toNat_le_fullScale raw) (toNat_le_fullScale vref)

theorem toNat_mul_toNat_lt (raw : BitVec n) (vref : BitVec vw) : raw.toNat * vref.toNat < 2 ^ (n + vw) := by
  rw [pow_add]
  exact Nat.mul_lt_mul'' raw.isLt vref.isLt

/-- A number of `k` bits times `M` fits in `N + k` bits. -/
theorem mul_fullScale_lt {x k : Nat} (hx : x < 2 ^ k) : x * fullScale n < 2 ^ (n + k) := by
  rw [add_comm, pow_add]
  exact Nat.mul_lt_mul'' hx (fullScale_lt n)

/-- The upper end of a tolerance window fits in one bit more than a register. -/
theorem toNat_add_toNat_lt (trig tol : BitVec vw) : trig.toNat + tol.toNat < 2 ^ (vw + 1) := by
  have htrig := trig.isLt
  have htol := tol.isLt
  rw [pow_succ]
  omega

end Volt

/-! The obligations of the family. -/

/-- Settles O25: the scaling by `volt_value`, its corner cases, and that it rises with the sample. -/
theorem voltIsExactLinearScaling : Obligations.VoltIsExactLinearScaling := by
  unfold Obligations.VoltIsExactLinearScaling
  intro n vw raw raw' vref hn
  refine ⟨fullScale_pos hn, ?value, volt_value_zero_raw vref, volt_value_allOnes hn vref, volt_value_zero_vref raw,
    ?oneBit, volt_value_mono vref, volt_value_strictMono hn⟩
  case value => rw [volt_value, fullScale_cast]
  case oneBit =>
    rintro rfl
    exact volt_value_one_bit raw vref

/-- Settles O26: the comparisons by `Voltage.lt_iff_value` and its companions, as `M` is positive; the widths by the bounds
of the factors. -/
theorem comparisonsAreExact : Obligations.ComparisonsAreExact := by
  unfold Obligations.ComparisonsAreExact
  intro n vw raw vref hn
  have hden : 0 < (volt raw vref).den := fullScale_pos hn
  refine ⟨fun T => ⟨Voltage.lt_iff_value hden T, Voltage.le_iff_value hden T, Voltage.gt_iff_value hden T,
      Voltage.ge_iff_value hden T, Voltage.eq_iff_value hden T, ?cross⟩,
    toNat_mul_toNat_le raw vref, toNat_mul_toNat_lt raw vref, fun T => mul_fullScale_lt T.isLt,
    fun trig tol => mul_fullScale_lt (toNat_add_toNat_lt trig tol)⟩
  case cross => rw [Voltage.lt_iff, volt_num, volt_den, fullScale_cast, Nat.cast_mul]

/-- Settles O27: each clause is a fact about `below`, taken at the reading of wire A and of wire B. -/
theorem floorComparatorIsStrict : Obligations.FloorComparatorIsStrict := by
  unfold Obligations.FloorComparatorIsStrict
  intro n vw lw b i hn
  have hden (raw : BitVec n) : 0 < (volt raw b.vref).den := fullScale_pos hn
  refine ⟨below_iff_value (hden i.rawA) _, below_iff_value (hden i.rawB) _, ?floorZero, ?vrefZero,
    not_below_not_gt_of_value_eq (hden i.rawA), not_below_not_gt_of_value_eq (hden i.rawB)⟩
  case floorZero =>
    intro hf
    have hzero : b.floor.toNat = 0 := by rw [hf]; exact BitVec.toNat_zero
    rw [Block.blwA, Block.blwB, hzero]
    exact ⟨below_zero _, below_zero _⟩
  case vrefZero =>
    intro hv
    rw [Block.blwA, Block.blwB, Block.va, Block.vb, hv]
    exact ⟨below_volt_zero_vref hn _ _, below_volt_zero_vref hn _ _⟩

end Sys2Proof.Machine

/-! SUPPORT. The proofs of the family 41_threshold_classifier.md: bounds compared through a voltage, the classifier by its
windows, and the windows of a well-formed table. -/

namespace Sys2Proof.Machine

/-! Two bounds a voltage lies between are ordered as the voltage orders them. -/

section Bounds

variable {v : Voltage} {a b : Nat}

theorem Voltage.lt_of_gt_of_le (ha : v.gt a = true) (hb : v.le b = true) : a < b := by
  rw [Voltage.gt_iff] at ha
  rw [Voltage.le_iff] at hb
  by_contra h
  exact absurd (ha.trans_le hb) (scaled_le v (not_lt.mp h)).not_gt

theorem Voltage.lt_of_ge_of_lt (ha : v.ge a = true) (hb : v.lt b = true) : a < b := by
  rw [Voltage.ge_iff] at ha
  rw [Voltage.lt_iff] at hb
  by_contra h
  exact absurd (ha.trans_lt hb) (scaled_le v (not_lt.mp h)).not_gt

theorem Voltage.le_of_lt {T : Int} (h : v.lt T = true) : v.le T = true :=
  (Voltage.le_iff v T).mpr ((Voltage.lt_iff v T).mp h).le

theorem Voltage.ge_of_gt {T : Int} (h : v.gt T = true) : v.ge T = true :=
  (Voltage.ge_iff v T).mpr ((Voltage.gt_iff v T).mp h).le

theorem Voltage.le_of_eq {T : Int} (h : v.eq T = true) : v.le T = true :=
  (Voltage.le_iff v T).mpr ((Voltage.eq_iff v T).mp h).le

theorem Voltage.ge_of_eq {T : Int} (h : v.eq T = true) : v.ge T = true :=
  (Voltage.ge_iff v T).mpr ((Voltage.eq_iff v T).mp h).ge

theorem Voltage.lt_or_gt_of_ne {T : Int} (h : v.eq T = false) : v.lt T = true ∨ v.gt T = true := by
  rw [Voltage.lt_iff, Voltage.gt_iff]
  exact Int.lt_or_gt_of_ne (of_decide_eq_false h)

end Bounds

/-! The classifier by its windows, on every table (41_threshold_classifier.md R76, R80). -/

section Windows

variable {v : Voltage} {f : Nat} {t : Idx → Nat}

/-- CLASSIFY asks for the windows from index 3 down. -/
theorem classify_eq_first_window (v : Voltage) (f : Nat) (t : Idx → Nat) :
    classify v f t =
      if InWindow v f t 3 then some 3
      else if InWindow v f t 2 then some 2
      else if InWindow v f t 1 then some 1
      else if InWindow v f t 0 then some 0
      else none := by
  simp only [classify_unrolled, inWindow_iff, windowLow_zero, windowLow_one, windowLow_two, windowLow_three]

theorem classify_eq_none_iff : classify v f t = none ↔ ∀ k, ¬InWindow v f t k := by
  rw [classify_eq_first_window, forall_idx]
  constructor
  · intro h
    split_ifs at h with h3 h2 h1 h0
    exact ⟨h0, h1, h2, h3⟩
  · rintro ⟨h0, h1, h2, h3⟩
    rw [if_neg h3, if_neg h2, if_neg h1, if_neg h0]

/-- The window found holds the voltage, and those asked before it do not. -/
theorem greatest_window_of_classify {k : Idx} (h : classify v f t = some k) :
    InWindow v f t k ∧ ∀ j, k < j → ¬InWindow v f t j := by
  have above_three : ∀ j : Idx, ¬3 < j := by decide
  have above_two : ∀ j : Idx, 2 < j → j = 3 := by decide
  have above_one : ∀ j : Idx, 1 < j → j = 2 ∨ j = 3 := by decide
  have above_zero : ∀ j : Idx, 0 < j → j = 1 ∨ j = 2 ∨ j = 3 := by decide
  rw [classify_eq_first_window] at h
  split_ifs at h with h3 h2 h1 h0 <;> cases h
  · exact ⟨h3, fun j hj => absurd hj (above_three j)⟩
  · refine ⟨h2, fun j hj => ?_⟩
    rwa [above_two j hj]
  · refine ⟨h1, fun j hj => ?_⟩
    rcases above_one j hj with rfl | rfl <;> assumption
  · refine ⟨h0, fun j hj => ?_⟩
    rcases above_zero j hj with rfl | rfl | rfl <;> assumption

theorem classify_eq_some_iff {k : Idx} :
    classify v f t = some k ↔ InWindow v f t k ∧ ∀ j, k < j → ¬InWindow v f t j := by
  refine ⟨greatest_window_of_classify, ?_⟩
  rintro ⟨hk, hlast⟩
  cases hc : classify v f t with
  | none => exact absurd hk (classify_eq_none_iff.mp hc k)
  | some j =>
    obtain ⟨hj, hlast'⟩ := greatest_window_of_classify hc
    rcases BitVec.lt_trichotomy j k with hlt | rfl | hlt
    · exact absurd hk (hlast' k hlt)
    · rfl
    · exact absurd hj (hlast j hlt)

/-- A window whose ends do not rise is empty. -/
theorem not_inWindow_of_trigger_le_low {k : Idx} (h : t k ≤ windowLow f t k) : ¬InWindow v f t k :=
  fun ⟨hlow, hhigh⟩ => absurd (Voltage.lt_of_gt_of_le hlow (Voltage.le_of_lt hhigh)) h.not_gt

theorem windowLow_of_lt_three (f : Nat) (t : Idx → Nat) : ∀ k : Idx, k < 3 → windowLow f t k = t (k + 1) :=
  forall_idx.mpr ⟨fun _ => rfl, fun _ => rfl, fun _ => rfl, fun h => absurd h (by decide)⟩

theorem floor_le_windowLow (h1 : f ≤ t 1) (h2 : f ≤ t 2) (h3 : f ≤ t 3) : ∀ k, f ≤ windowLow f t k :=
  forall_idx.mpr ⟨h1, h2, h3, le_refl f⟩

theorem classify_eq_none_of_le_floor (h : ∀ k, f ≤ windowLow f t k) (hv : v.le f = true) : classify v f t = none :=
  classify_eq_none_iff.mpr fun k ⟨hlow, _⟩ => absurd (Voltage.lt_of_gt_of_le hlow hv) (h k).not_gt

theorem classify_eq_none_of_ge_triggers (h : ∀ k, v.ge (t k) = true) : classify v f t = none :=
  classify_eq_none_iff.mpr fun k ⟨_, hhigh⟩ => absurd (Voltage.lt_of_ge_of_lt (h k) hhigh) (lt_irrefl _)

/-- Of a rising table only the window from the floor to the last trigger can match. -/
theorem classify_of_rising (h0 : t 0 < t 1) (h1 : t 1 < t 2) (h2 : t 2 < t 3) :
    classify v f t = if v.gt f && v.lt (t 3) then some 3 else none := by
  have hempty0 : ¬InWindow v f t 0 := not_inWindow_of_trigger_le_low h0.le
  have hempty1 : ¬InWindow v f t 1 := not_inWindow_of_trigger_le_low h1.le
  have hempty2 : ¬InWindow v f t 2 := not_inWindow_of_trigger_le_low h2.le
  rw [classify_eq_first_window, if_neg hempty2, if_neg hempty1, if_neg hempty0]
  exact if_congr (Bool.and_eq_true _ _).symm.to_iff rfl rfl

/-- Going up from the floor past window after window, a voltage below `t[0]` that equals no inner trigger meets the window
it lies in. -/
theorem exists_inWindow (hf : v.gt f = true) (h0 : v.lt (t 0) = true) (h1 : v.eq (t 1) = false)
    (h2 : v.eq (t 2) = false) (h3 : v.eq (t 3) = false) : ∃ k, InWindow v f t k := by
  by_contra hnone
  have past (k : Idx) (hlow : v.gt (windowLow f t k) = true) (hne : v.eq (t k) = false) : v.gt (t k) = true :=
    (Voltage.lt_or_gt_of_ne hne).resolve_left fun hhigh => hnone ⟨k, hlow, hhigh⟩
  have hgt3 : v.gt (t 3) = true := past 3 hf h3
  have hgt2 : v.gt (t 2) = true := past 2 hgt3 h2
  have hgt1 : v.gt (t 1) = true := past 1 hgt2 h1
  exact hnone ⟨0, hgt1, h0⟩

end Windows

/-! The windows of a well-formed table (41_threshold_classifier.md R78, R79). -/

section WellFormed

variable {v : Voltage} {f : Nat} {t : Idx → Nat}

theorem WFTable.low_lt_trigger (h : WFTable f t) : ∀ k, windowLow f t k < t k := by
  obtain ⟨h3, h2, h1, h0⟩ := h
  exact forall_idx.mpr ⟨h0, h1, h2, h3⟩

/-- The windows of greater index lie lower. -/
theorem WFTable.trigger_le_low (h : WFTable f t) {j k : Idx} (hjk : j < k) : t k ≤ windowLow f t j := by
  obtain ⟨-, h2, h1, -⟩ := h
  have pairs : ∀ i l : Idx, i < l →
      (i < 3 ∧ l = i + 1) ∨ (i = 0 ∧ l = 2) ∨ (i = 0 ∧ l = 3) ∨ (i = 1 ∧ l = 3) := by decide
  rcases pairs j k hjk with ⟨hj, rfl⟩ | ⟨rfl, rfl⟩ | ⟨rfl, rfl⟩ | ⟨rfl, rfl⟩
  · exact (windowLow_of_lt_three f t j hj).ge
  · exact h1.le
  · exact (h2.trans h1).le
  · exact h2.le

theorem WFTable.trigger_le_trigger (h : WFTable f t) {j k : Idx} (hjk : j ≤ k) : t k ≤ t j := by
  rcases BitVec.lt_trichotomy j k with hlt | rfl | hlt
  · exact (h.trigger_le_low hlt).trans (h.low_lt_trigger j).le
  · exact le_refl _
  · exact absurd hlt (BitVec.not_lt.mpr hjk)

theorem WFTable.floor_le_low (h : WFTable f t) : ∀ k, f ≤ windowLow f t k := by
  obtain ⟨h3, h2, h1, -⟩ := h
  have hf2 := h3.trans h2
  exact floor_le_windowLow (hf2.trans h1).le hf2.le h3.le

/-- A voltage in window `k` is below no trigger of greater index. -/
theorem WFTable.le_of_inWindow (h : WFTable f t) {j k : Idx} (hk : InWindow v f t k) (hj : v.lt (t j) = true) :
    j ≤ k := by
  obtain ⟨hlow, -⟩ := hk
  refine BitVec.not_lt.mp fun hkj => ?_
  exact absurd (Voltage.lt_of_gt_of_le hlow (Voltage.le_of_lt hj)) (h.trigger_le_low hkj).not_gt

theorem WFTable.inWindow_unique (h : WFTable f t) {j k : Idx} (hj : InWindow v f t j) (hk : InWindow v f t k) :
    j = k :=
  BitVec.le_antisymm (h.le_of_inWindow hk hj.2) (h.le_of_inWindow hj hk.2)

theorem WFTable.classify_eq_some_iff (h : WFTable f t) {k : Idx} : classify v f t = some k ↔ InWindow v f t k := by
  rw [Machine.classify_eq_some_iff, and_iff_left_iff_imp]
  exact fun hk j hkj hj => BitVec.not_lt.mpr (h.le_of_inWindow hk hj.2) hkj

theorem WFTable.classify_of_ge_top (h : WFTable f t) (hv : v.ge (t 0) = true) : classify v f t = none := by
  refine classify_eq_none_iff.mpr fun k ⟨_, hhigh⟩ => ?_
  exact absurd (Voltage.lt_of_ge_of_lt hv hhigh) (h.trigger_le_trigger (BitVec.not_lt.mp BitVec.not_lt_zero)).not_gt

/-- A dead point: the windows of smaller index lie above trigger `k`, and the others end at it or below it. -/
theorem WFTable.classify_of_eq_trigger (h : WFTable f t) {k : Idx} (hv : v.eq (t k) = true) :
    classify v f t = none := by
  refine classify_eq_none_iff.mpr fun j ⟨hlow, hhigh⟩ => ?_
  by_cases hjk : j < k
  · exact absurd (Voltage.lt_of_gt_of_le hlow (Voltage.le_of_eq hv)) (h.trigger_le_low hjk).not_gt
  · exact absurd (Voltage.lt_of_ge_of_lt (Voltage.ge_of_eq hv) hhigh) (h.trigger_le_trigger (BitVec.not_lt.mp hjk)).not_gt

/-- Just above trigger `k` the window of the next smaller index begins. -/
theorem WFTable.classify_between_triggers (h : WFTable f t) {k : Idx} (hk : 0 < k) (hlow : v.gt (t k) = true)
    (hhigh : v.lt (t (k - 1)) = true) : classify v f t = some (k - 1) := by
  have hpred : ∀ i : Idx, 0 < i → i - 1 < 3 := by decide
  refine h.classify_eq_some_iff.mpr ⟨?_, hhigh⟩
  rwa [windowLow_of_lt_three f t _ (hpred k hk), BitVec.sub_add_cancel]

/-- Inside the table the slot found is the one of the least trigger above the voltage. -/
theorem WFTable.classify_least_trigger (h : WFTable f t) {k : Idx} (hk : InWindow v f t k) :
    classify v f t = some k ∧ v.lt (t k) = true ∧ ∀ j, v.lt (t j) = true → t k ≤ t j :=
  ⟨h.classify_eq_some_iff.mpr hk, hk.2, fun _ hj => h.trigger_le_trigger (h.le_of_inWindow hk hj)⟩

end WellFormed

/-! The obligations of the family. -/

/-- Settles O28: the scan from index 3 down, read as windows. -/
theorem classifyTakesTheGreatestWindow : Obligations.ClassifyTakesTheGreatestWindow := by
  unfold Obligations.ClassifyTakesTheGreatestWindow
  exact fun v f t => ⟨fun k => classify_eq_some_iff, classify_eq_none_iff⟩

/-- Settles O29: the windows of a well-formed table lie one above the other, so a voltage is in at most one. -/
theorem classifyOnWellFormedTables : Obligations.ClassifyOnWellFormedTables := by
  unfold Obligations.ClassifyOnWellFormedTables
  intro v f t h
  refine ⟨h.low_lt_trigger, fun j k => h.trigger_le_low, fun j k => h.inWindow_unique,
    classify_eq_none_of_le_floor h.floor_le_low, h.classify_of_ge_top, fun k => h.classify_of_eq_trigger, ?inside,
    fun k => h.classify_eq_some_iff⟩
  case inside =>
    intro hf h0 h1 h2 h3
    obtain ⟨k, hk⟩ := exists_inWindow hf h0 h1 h2 h3
    exact ⟨k, h.classify_least_trigger hk⟩

/-- Settles O30: the product of either wire is the numerator of its reading and `M` the denominator, so each clause is one
about the classifier on a well-formed table. -/
theorem deadPointsClassifyToNothing : Obligations.DeadPointsClassifyToNothing := by
  unfold Obligations.DeadPointsClassifyToNothing
  intro n vw lw b i w product cls h hproduct hcls
  obtain ⟨v, hnum, hden, hc⟩ : ∃ v : Voltage,
      v.num = product ∧ v.den = 2 ^ n - 1 ∧ cls = classify v b.floor.toNat (b.triggers w) := by
    cases w with
    | a => exact ⟨b.va i, hproduct.symm, rfl, hcls⟩
    | b => exact ⟨b.vb i, hproduct.symm, rfl, hcls⟩
  rw [hc, ← hnum, ← hden]
  refine ⟨fun k hk => h.classify_of_eq_trigger (k := k) ?atTrigger,
    fun hf => classify_eq_none_of_le_floor h.floor_le_low ?atFloor,
    fun k hk hlow hhigh => h.classify_between_triggers hk ?aboveTrigger ?belowNext,
    fun htop => h.classify_of_ge_top (Voltage.ge_of_gt ?aboveTop)⟩
  case atTrigger => exact (Voltage.eq_iff v _).mpr (by exact_mod_cast hk)
  case atFloor => exact (Voltage.le_iff v _).mpr (by exact_mod_cast hf.le)
  case aboveTrigger => exact (Voltage.gt_iff v _).mpr (by exact_mod_cast hlow)
  case belowNext => exact (Voltage.lt_iff v _).mpr (by exact_mod_cast hhigh)
  case aboveTop => exact (Voltage.gt_iff v _).mpr (by exact_mod_cast htop)

/-- Settles O31: which windows are empty, and what lies in none, on a table of any shape; the two examples of the rule are
run. -/
theorem classifyOnAnyTable : Obligations.ClassifyOnAnyTable := by
  unfold Obligations.ClassifyOnAnyTable
  refine ⟨fun v f t => ⟨classify_eq_none_of_ge_triggers,
    fun h1 h2 h3 => classify_eq_none_of_le_floor (floor_le_windowLow h1 h2 h3),
    fun h0 h1 h2 _ => classify_of_rising h0 h1 h2, ?overlap, ?equal, ?zero⟩, rfl, rfl⟩
  case overlap =>
    intro j k hjk hk hc
    obtain ⟨-, hlast⟩ := greatest_window_of_classify hc
    exact hlast k hjk hk
  case equal =>
    intro k hk heq
    have hempty : ¬InWindow v f t k :=
      not_inWindow_of_trigger_le_low ((windowLow_of_lt_three f t k hk).trans heq).ge
    exact ⟨hempty, fun hc => hempty (greatest_window_of_classify hc).1⟩
  case zero =>
    intro _ hzero
    exact classify_eq_none_iff.mpr fun k => not_inWindow_of_trigger_le_low (by simp [hzero k])

/-- Settles O32: the closed runs of the scan on the rising and on the falling table. -/
theorem risingTableGivesSlotThree : Obligations.RisingTableGivesSlotThree := by
  unfold Obligations.RisingTableGivesSlotThree
  exact ⟨rfl, rfl, rfl, rfl, rfl, rfl⟩

end Sys2Proof.Machine

/-! SUPPORT. The proofs of the family 42_tolerance_decoder.md: the reading a slot is tested on, the decoder as the least
slot whose closed window holds its reading, and the readings of special registers. -/

namespace Sys2Proof.Machine

section Decoder

variable {n vw lw : Nat} {b : Block vw lw} {i : Inputs n vw}

/-! The reading of a slot (10_state.md R21). -/

/-- The reading slot `s` is tested on: that of the wire its WIREMAP bit names. -/
def Block.slotReading (b : Block vw lw) (i : Inputs n vw) (s : Slot) : Voltage :=
  if b.wiremap.getLsbD s.toNat then b.vb i else b.va i

theorem Block.slotReading_num (b : Block vw lw) (i : Inputs n vw) (s : Slot) :
    (b.slotReading i s).num
      = (if b.wiremap.getLsbD s.toNat = false then i.rawA.toNat else i.rawB.toNat) * b.vref.toNat := by
  unfold Block.slotReading
  cases b.wiremap.getLsbD s.toNat <;> rfl

theorem Block.slotReading_den (b : Block vw lw) (i : Inputs n vw) (s : Slot) :
    (b.slotReading i s).den = fullScale n := by
  unfold Block.slotReading
  cases b.wiremap.getLsbD s.toNat <;> rfl

theorem Block.slotReading_num_of_vref_zero (h : b.vref = 0) (s : Slot) : (b.slotReading i s).num = 0 := by
  rw [Block.slotReading_num, h, BitVec.ofNat_eq_ofNat, BitVec.toNat_zero, Nat.mul_zero]

/-- A WIREMAP of zeros names wire A for every slot. -/
theorem Block.slotReading_of_map_zeros (h : b.wiremap = 0x00) (s : Slot) : b.slotReading i s = b.va i := by
  rw [Block.slotReading, h, BitVec.ofNat_eq_ofNat, BitVec.getLsbD_zero, if_neg Bool.false_ne_true]

/-- A WIREMAP of ones names wire B for every slot. -/
theorem Block.slotReading_of_map_ones (h : b.wiremap = 0xFF) (s : Slot) : b.slotReading i s = b.vb i := by
  have hbit : ∀ r : Slot, (0xFF : BitVec 8).getLsbD r.toNat = true := by decide
  rw [Block.slotReading, h, if_pos (hbit s)]

/-! The decoder by its windows (42_tolerance_decoder.md R85). -/

/-- The closed window of slot `s` holds its reading. -/
def Block.InSlotWindow (b : Block vw lw) (i : Inputs n vw) (s : Slot) : Prop :=
  inTolerance (b.slotReading i s) (b.trigger s) b.tol.toNat = true

theorem Block.dec_eq_find (b : Block vw lw) (i : Inputs n vw) :
    b.dec i = allSlots.find? fun s => inTolerance (b.slotReading i s) (b.trigger s) b.tol.toNat := by
  unfold Block.dec toleranceDecode
  congr 1
  funext s
  unfold wireOfMap Block.slotReading
  cases b.wiremap.getLsbD s.toNat <;> rfl

theorem Block.dec_eq_some_iff {s : Slot} :
    b.dec i = some s ↔ b.InSlotWindow i s ∧ ∀ r, r < s → ¬b.InSlotWindow i r := by
  rw [Block.dec_eq_find, find?_eq_some_iff_least _ allSlots_rising]
  simp only [mem_allSlots, true_and, forall_const, Block.InSlotWindow]

theorem Block.dec_eq_none_iff : b.dec i = none ↔ ∀ s, ¬b.InSlotWindow i s := by
  rw [Block.dec_eq_find, List.find?_eq_none]
  simp only [mem_allSlots, forall_const, Block.InSlotWindow]

/-- The decoder sees the samples through the readings of the slots only. -/
theorem Block.dec_congr {j : Inputs n vw} (h : ∀ s, b.slotReading i s = b.slotReading j s) : b.dec i = b.dec j := by
  simp only [Block.dec_eq_find, h]

/-- The window by cross-multiplication with `M = 2^N - 1`. -/
theorem Block.inSlotWindow_iff {s : Slot} :
    b.InSlotWindow i s ↔
      ((b.trigger s : Int) - b.tol.toNat) * (2 ^ n - 1) ≤ (b.slotReading i s).num
        ∧ ((b.slotReading i s).num : Int) ≤ ((b.trigger s : Int) + b.tol.toNat) * (2 ^ n - 1) := by
  rw [Block.InSlotWindow, inTolerance_iff, Block.slotReading_den, fullScale_cast]

/-! The corner cases (42_tolerance_decoder.md R86). -/

/-- A window of tolerance 0 is its trigger. -/
theorem eq_of_inTolerance_zero {r : Voltage} {trig : Nat} (h : inTolerance r trig 0 = true) : r.eq trig = true := by
  rw [inTolerance_iff, Nat.cast_zero, sub_zero, add_zero] at h
  obtain ⟨hlow, hhigh⟩ := h
  exact (Voltage.eq_iff r trig).mpr (le_antisymm hhigh hlow)

/-- A reading of 0 is above the lower end of a window that reaches down to 0, and never above the upper end. -/
theorem inTolerance_iff_of_num_zero {r : Voltage} (hden : 0 < r.den) (hnum : r.num = 0) (trig tol : Nat) :
    inTolerance r trig tol = true ↔ trig ≤ tol := by
  have hd : (0 : Int) < r.den := Nat.cast_pos.mpr hden
  have hupper : (0 : Int) ≤ ((trig : Int) + tol) * r.den := by positivity
  calc inTolerance r trig tol = true
    _ ↔ ((trig : Int) - tol) * r.den ≤ 0 := by rw [inTolerance_iff, hnum, Nat.cast_zero, and_iff_left hupper]
    _ ↔ (trig : Int) - tol ≤ 0 := ⟨(nonpos_of_mul_nonpos_left · hd), (mul_nonpos_of_nonpos_of_nonneg · hd.le)⟩
    _ ↔ trig ≤ tol := by rw [sub_nonpos, Nat.cast_le]

theorem Block.inSlotWindow_iff_of_vref_zero (hn : 1 ≤ n) (h : b.vref = 0) (s : Slot) :
    b.InSlotWindow i s ↔ b.trigger s ≤ b.tol.toNat :=
  inTolerance_iff_of_num_zero ((b.slotReading_den i s).symm ▸ fullScale_pos hn)
    (Block.slotReading_num_of_vref_zero h s) _ _

/-- After reset VREF, TOL and every trigger are 0, so slot 0 already holds the reading 0. -/
theorem Block.zero_dec (hn : 1 ≤ n) (i : Inputs n vw) : (Block.zero vw lw).dec i = some 0 := by
  have htrigger : (Block.zero vw lw).trigger 0 = 0 := BitVec.toNat_zero
  refine Block.dec_eq_some_iff.mpr ⟨(Block.inSlotWindow_iff_of_vref_zero hn rfl 0).mpr ?_, fun r hr => ?_⟩
  · exact htrigger.trans_le (Nat.zero_le _)
  · exact absurd hr BitVec.not_lt_zero

end Decoder

/-! The obligations of the family. -/

/-- Settles O33: the scan over the rising slots finds the least one, and `inside` is its window test. -/
theorem decodeTakesTheFirstClosedWindow : Obligations.DecodeTakesTheFirstClosedWindow := by
  unfold Obligations.DecodeTakesTheFirstClosedWindow
  intro n vw lw b i inside hinside
  have hwindow (s : Slot) : inside s ↔ b.InSlotWindow i s := by
    rw [hinside s, Block.inSlotWindow_iff, Block.slotReading_num, Nat.cast_mul]
    rfl
  simp only [hwindow]
  exact ⟨fun s => Block.dec_eq_some_iff, Block.dec_eq_none_iff⟩

/-- Settles O34: each corner case is one about the window test of a slot, or about the reading the slot is tested on. -/
theorem decodeCornerCases : Obligations.DecodeCornerCases := by
  unfold Obligations.DecodeCornerCases
  intro n vw lw b i hn
  refine ⟨fun s htol hdec => ?tolZero, Block.zero_dec hn i, fun hv => ?vrefZero, fun x hmap => ?wireB,
    fun x hmap => ?wireA⟩
  case tolZero =>
    obtain ⟨hwindow, -⟩ := Block.dec_eq_some_iff.mp hdec
    rw [Block.InSlotWindow, htol, BitVec.ofNat_eq_ofNat, BitVec.toNat_zero] at hwindow
    exact eq_of_inTolerance_zero hwindow
  case vrefZero =>
    have hwindow (s : Slot) : b.trigger s ≤ b.tol.toNat ↔ b.InSlotWindow i s :=
      (Block.inSlotWindow_iff_of_vref_zero hn hv s).symm
    simp only [← not_le, hwindow]
    exact ⟨fun s => Block.dec_eq_some_iff, Block.dec_eq_none_iff⟩
  case wireB =>
    refine Block.dec_congr fun s => ?_
    rw [Block.slotReading_of_map_zeros hmap, Block.slotReading_of_map_zeros hmap]
    rfl
  case wireA =>
    refine Block.dec_congr fun s => ?_
    rw [Block.slotReading_of_map_ones hmap, Block.slotReading_of_map_ones hmap]
    rfl

/-- Settles O35: the closed runs of the window test at both ends, inside, and one unit beyond each end. -/
theorem toleranceExample : Obligations.ToleranceExample := by
  unfold Obligations.ToleranceExample
  exact ⟨rfl, rfl, rfl, rfl, rfl, rfl⟩

end Sys2Proof.Machine

/-! SUPPORT. The proofs of the family 43_pulse_emitter.md: the hold condition, the clocks of a hold, where a pulse begins and
ends, and runs of a whole pulse. -/

namespace Sys2Proof.Machine

/-! The hold condition (43_pulse_emitter.md R90). -/

section HoldCondition

variable {n vw lw : Nat} {b : Block vw lw} {i : Inputs n vw}

theorem Block.holdBit_of_both (h : b.relmode = .both) : b.holdBit i = (b.blwA i || b.blwB i) := by
  rw [Block.holdBit, h]; rfl

theorem Block.holdBit_of_aOnly (h : b.relmode = .aOnly) : b.holdBit i = b.blwA i := by
  rw [Block.holdBit, h]; rfl

theorem Block.holdBit_of_bOnly (h : b.relmode = .bOnly) : b.holdBit i = b.blwB i := by
  rw [Block.holdBit, h]; rfl

/-- With FLOOR = 0 no wire is below the floor, so no tick keeps holding. -/
theorem Block.holdBit_of_floor_zero (h : b.floor = 0) : b.holdBit i = false := by
  have hzero : b.floor.toNat = 0 := by rw [h]; exact BitVec.toNat_zero
  apply Block.holdBit_of_above_floor
  · rw [Block.blwA, hzero]; exact below_zero _
  · rw [Block.blwB, hzero]; exact below_zero _

/-- A comparator bit is 0 exactly where its wire's voltage is at least FLOOR. -/
theorem Block.blw_eq_false_iff_value (hn : 1 ≤ n) :
    (b.blwA i = false ↔ (b.floor.toNat : ℚ) ≤ (volt i.rawA b.vref).value)
      ∧ (b.blwB i = false ↔ (b.floor.toNat : ℚ) ≤ (volt i.rawB b.vref).value) := by
  have habove (raw : BitVec n) :
      below (volt raw b.vref) b.floor.toNat = false ↔ (b.floor.toNat : ℚ) ≤ (volt raw b.vref).value := by
    rw [← Bool.not_eq_true, below_iff_value (fullScale_pos hn), not_lt]
  exact ⟨habove i.rawA, habove i.rawB⟩

end HoldCondition

theorem adcBits_pos_of_params_wf {p : Params} (h : p.wf = true) : 1 ≤ p.adcBits := by
  simp only [Params.wf, Bool.and_eq_true, decide_eq_true_eq] at h
  omega

/-! The clocks that begin, sustain and end a pulse. -/

theorem fsmAfter_idle_eq_hold_iff {e : Instr} : fsmAfter .idle e = .hold ↔ e = .emitA ∨ e = .emitB := by
  cases e <;> decide

theorem fsmAfter_hold_eq_idle_iff {e : Instr} : fsmAfter .hold e = .idle ↔ e = .release ∨ e = .reset := by
  cases e <;> decide

section Clock

variable {s : State} {b : Block s.params.voltBits s.params.levelBits} {e : Instr}

/-- Under an event's condition the clock edge leaves what the event's rule leaves. -/
theorem Block.Selects.stepsTo (h : s.block.Selects s.inputs e) (hl : EventLeaves s b e) : StepsTo s b :=
  stepsTo_iff_leaves.mpr (State.event_eq_iff.mpr h ▸ hl)

/-- "no classification and no new emission happens while a hold lasts" (43_pulse_emitter.md R92). -/
theorem Block.Selects.not_dispatch_of_hold {n vw lw : Nat} {b : Block vw lw} {i : Inputs n vw} (h : b.Selects i e)
    (hf : b.fsm = .hold) : e ≠ .emitA ∧ e ≠ .emitB ∧ e ≠ .noact := by
  cases e with
  | emitA | emitB | noact =>
    obtain ⟨-, -, hidle, -⟩ := h
    simp [hf] at hidle
  | reset | cfgwr | nop | tickoff | hold | release => decide

/-- In run mode a dispatch cycle that emits slot `x` leaves the registers of that emission (44_dispatch.md R100, R101). -/
theorem stepsTo_emit {x : Slot} (hen : s.block.en = true) (hf : s.block.fsm = .idle) (htick : s.inputs.IsTick)
    (hx : s.block.Emits s.inputs x) : StepsTo s (s.block.emit x) := by
  obtain ⟨k, hk, rfl⟩ | ⟨ha, k, hk, rfl⟩ := Block.emits_iff.mp hx
  · exact Block.Selects.stepsTo (e := .emitA) ⟨htick, hen, hf, k, hk⟩ ⟨k, hk, rfl⟩
  · exact Block.Selects.stepsTo (e := .emitB) ⟨htick, hen, hf, ha, k, hk⟩ ⟨k, hk, rfl⟩

/-- A tick whose hold condition is false ends the hold (43_pulse_emitter.md R93). -/
theorem stepsTo_release (hen : s.block.en = true) (hf : s.block.fsm = .hold) (htick : s.inputs.IsTick)
    (hh : s.block.holdBit s.inputs = false) : StepsTo s s.block.release :=
  Block.Selects.stepsTo (e := .release) ⟨htick, hen, hf, hh⟩ rfl

end Clock

/-- A clock that sustains a hold: no `rst`, and if it is a tick its hold condition is true. -/
abbrev Block.KeepsHolding {n vw lw : Nat} (b : Block vw lw) (x : Inputs n vw) : Prop :=
  x.rst = false ∧ (x.IsTick → b.holdBit x = true)

/-- In run mode a clock that sustains a hold changes no register: it is a locked write, a NOP or a HOLD. -/
theorem stepsTo_self_of_keepsHolding {s : State} (hen : s.block.en = true) (hf : s.block.fsm = .hold)
    (h : s.block.KeepsHolding s.inputs) : StepsTo s s.block := by
  obtain ⟨hrst, hpoll⟩ := h
  cases hw : s.inputs.cfgWe with
  | true => exact Block.Selects.stepsTo (e := .cfgwr) ⟨hrst, hw⟩ (s.block.regWrite_locked _ _ hen).symm
  | false =>
    cases ht : s.inputs.tick with
    | false => exact Block.Selects.stepsTo (e := .nop) ⟨hrst, hw, ht⟩ rfl
    | true =>
      have htick : s.inputs.IsTick := ⟨hrst, hw, ht⟩
      exact Block.Selects.stepsTo (e := .hold) ⟨htick, hen, hf, hpoll htick⟩ rfl

/-! Runs. -/

/-- A run is a run of its first edges followed by a run of the others. -/
theorem runSteps_add {m : Nat} {s t : State} (h : runSteps m s = .next t) (n : Nat) :
    runSteps (m + n) s = runSteps n t := by
  induction m generalizing s with
  | zero =>
    cases h
    rw [Nat.zero_add]
  | succ m ih =>
    obtain ⟨b, hb⟩ := exists_stepsTo s
    rw [runSteps_succ m hb] at h
    rw [Nat.add_right_comm, runSteps_succ (m + n) hb, ih h]

/-- Any number of clocks that sustain a hold leave every register as it is (43_pulse_emitter.md R94 items 3 and 6). -/
theorem runSteps_of_keepsHolding {p : Params} {b : Block p.voltBits p.levelBits} (hen : b.en = true) (hf : b.fsm = .hold)
    {polls : List (Inputs p.adcBits p.voltBits)} (hpolls : ∀ x ∈ polls, b.KeepsHolding x)
    (tr : List (Inputs p.adcBits p.voltBits)) (k : Nat) {m : Nat} (hm : m ≤ polls.length) :
    runSteps m (State.mk' p b (polls ++ tr) k) = .next (State.mk' p b (polls.drop m ++ tr) (k + m)) := by
  induction polls generalizing m k with
  | nil =>
    obtain rfl : m = 0 := Nat.le_zero.mp hm
    rfl
  | cons x polls ih =>
    cases m with
    | zero => rfl
    | succ m =>
      have hstep : StepsTo (State.mk' p b (x :: (polls ++ tr)) k) b :=
        stepsTo_self_of_keepsHolding hen hf (hpolls x List.mem_cons_self)
      calc runSteps (m + 1) (State.mk' p b (x :: (polls ++ tr)) k)
          = runSteps m (State.mk' p b (polls ++ tr) (k + 1)) := runSteps_succ m hstep
        _ = .next (State.mk' p b (polls.drop m ++ tr) (k + 1 + m)) :=
          ih (fun y hy => hpolls y (List.mem_cons_of_mem x hy)) (k + 1) (Nat.le_of_succ_le_succ hm)
        _ = .next (State.mk' p b ((x :: polls).drop (m + 1) ++ tr) (k + (m + 1))) := by
          rw [List.drop_succ_cons, Nat.add_assoc, Nat.add_comm 1 m]

/-! A hold reads the samples only through its hold condition (43_pulse_emitter.md R92, R94 item 5). -/

section Samples

variable {n vw lw : Nat}

/-- The inputs of a clock with other samples. -/
def withSamples (i : Inputs n vw) (x y : BitVec n) : Inputs n vw := { i with rawA := x, rawB := y }

theorem Block.blwA_withSamples (b : Block vw lw) (i : Inputs n vw) (y : BitVec n) :
    b.blwA (withSamples i i.rawA y) = b.blwA i := rfl

theorem Block.blwB_withSamples (b : Block vw lw) (i : Inputs n vw) (x : BitVec n) :
    b.blwB (withSamples i x i.rawB) = b.blwB i := rfl

/-- In a hold other samples with the same hold condition select the same event. -/
theorem Block.Selects.of_samples {b : Block vw lw} {i : Inputs n vw} {e : Instr} (h : b.Selects i e)
    (hf : b.fsm = .hold) {x y : BitVec n} (hh : b.holdBit (withSamples i x y) = b.holdBit i) :
    b.Selects (withSamples i x y) e := by
  obtain ⟨hA, hB, hN⟩ := h.not_dispatch_of_hold hf
  cases e with
  | reset | cfgwr | nop | tickoff => exact h
  | emitA => exact absurd rfl hA
  | emitB => exact absurd rfl hB
  | noact => exact absurd rfl hN
  | hold | release =>
    obtain ⟨ht, hen, -, hhold⟩ := h
    exact ⟨ht, hen, hf, hh.trans hhold⟩

/-- In a hold other samples with the same hold condition leave the same registers. -/
theorem StepsTo.of_samples {p : Params} {b b' : Block p.voltBits p.levelBits} {i : Inputs p.adcBits p.voltBits}
    {tr : List (Inputs p.adcBits p.voltBits)} {k : Nat} (h : StepsTo (State.mk' p b (i :: tr) k) b')
    (hf : b.fsm = .hold) {x y : BitVec p.adcBits} (hh : b.holdBit (withSamples i x y) = b.holdBit i) :
    StepsTo (State.mk' p b (withSamples i x y :: tr) k) b' := by
  have hsel : b.Selects i (State.mk' p b (i :: tr) k).event := State.event_eq_iff.mp rfl
  have hl : EventLeaves (State.mk' p b (i :: tr) k) b' (State.mk' p b (i :: tr) k).event := h.leaves
  generalize (State.mk' p b (i :: tr) k).event = e at hsel hl
  obtain ⟨hA, hB, -⟩ := hsel.not_dispatch_of_hold hf
  have hl' : EventLeaves (State.mk' p b (withSamples i x y :: tr) k) b' e := by
    cases e with
    | emitA => exact absurd rfl hA
    | emitB => exact absurd rfl hB
    | reset | cfgwr | nop | tickoff | noact | hold | release => exact hl
  exact Block.Selects.stepsTo (hsel.of_samples hf hh) hl'

end Samples

/-! The obligations of the family. -/

/-- Settles O46: STATE after each event by `EventLeaves.fsm_eq`; while the hold lasts no event that writes OUT, SLOT or RES
is performed. -/
theorem pulseStartsAtEmitAndEndsAtRelease : Obligations.PulseStartsAtEmitAndEndsAtRelease := by
  unfold Obligations.PulseStartsAtEmitAndEndsAtRelease
  intro s b hstep
  have hfsm : b.fsm = fsmAfter s.block.fsm s.event := hstep.leaves.fsm_eq
  have hstart (hidle : s.block.fsm = .idle) : b.fsm = .hold ↔ s.event = .emitA ∨ s.event = .emitB := by
    rw [hfsm, hidle, fsmAfter_idle_eq_hold_iff]
  have hend (hhold : s.block.fsm = .hold) : b.fsm = .idle ↔ s.event = .release ∨ s.event = .reset := by
    rw [hfsm, hhold, fsmAfter_hold_eq_idle_iff]
  refine ⟨hstart, hend, fun hhold hhold' => ?constant⟩
  obtain ⟨hA, hB, hN⟩ := (State.event_eq_iff.mp rfl : s.block.Selects s.inputs s.event).not_dispatch_of_hold hhold
  obtain ⟨hL, hR⟩ : s.event ≠ .release ∧ s.event ≠ .reset := by
    rw [← not_or, ← hend hhold, hhold']
    decide
  obtain ⟨-, hres, hslot, hout, -⟩ := registersAreWrittenOnlyByTheirEvents s b hstep
  exact ⟨by_contra fun h => by simpa [hA, hB, hL, hR] using hout h,
    by_contra fun h => by simpa [hA, hB, hR] using hslot h,
    by_contra fun h => by simpa [hA, hB, hN, hR] using hres h⟩

/-- Settles O47: one emission, then the clocks that sustain the hold, then one release. -/
theorem pulseOfAnyLength : Obligations.PulseOfAnyLength := by
  unfold Obligations.PulseOfAnyLength
  intro p b s first last polls tr k hen hf hfirst hemits hpolls hlast hrelease
  have hemit : StepsTo (State.mk' p b (first :: (polls ++ last :: tr)) k) (b.emit s) :=
    stepsTo_emit hen hf hfirst hemits
  have hheld (m : Nat) (hm : m ≤ polls.length) :
      runSteps (m + 1) (State.mk' p b (first :: (polls ++ last :: tr)) k)
        = .next (State.mk' p (b.emit s) (polls.drop m ++ last :: tr) (k + (m + 1))) := by
    calc runSteps (m + 1) (State.mk' p b (first :: (polls ++ last :: tr)) k)
        = runSteps m (State.mk' p (b.emit s) (polls ++ last :: tr) (k + 1)) := runSteps_succ m hemit
      _ = .next (State.mk' p (b.emit s) (polls.drop m ++ last :: tr) (k + 1 + m)) :=
        runSteps_of_keepsHolding (b := b.emit s) hen rfl hpolls (last :: tr) (k + 1) hm
      _ = .next (State.mk' p (b.emit s) (polls.drop m ++ last :: tr) (k + (m + 1))) := by
        rw [Nat.add_assoc, Nat.add_comm 1 m]
  refine ⟨hheld, ?released⟩
  have hend : StepsTo (State.mk' p (b.emit s) (last :: tr) (k + (polls.length + 1))) (b.emit s).release :=
    stepsTo_release hen rfl hlast hrelease
  have hall := hheld polls.length le_rfl
  rw [List.drop_length, List.nil_append] at hall
  exact (runSteps_add hall 1).trans (runSteps_succ 0 hend)

/-- Settles O48: the hold condition of mode BOTH is false exactly where neither comparator bit is set. -/
theorem releaseNeedsBothWires : Obligations.ReleaseNeedsBothWires := by
  unfold Obligations.ReleaseNeedsBothWires
  intro s hwf htick hen hf hmode
  obtain ⟨ha, hb⟩ :=
    Block.blw_eq_false_iff_value (b := s.block) (i := s.inputs) (adcBits_pos_of_params_wf hwf)
  calc s.event = .release
      ↔ s.block.holdBit s.inputs = false :=
        State.event_eq_iff.trans ⟨fun ⟨_, _, _, h⟩ => h, fun h => ⟨htick, hen, hf, h⟩⟩
    _ ↔ s.block.blwA s.inputs = false ∧ s.block.blwB s.inputs = false := by
        rw [Block.holdBit_of_both hmode, Bool.or_eq_false_iff]
    _ ↔ _ := and_congr ha hb

/-- Settles O49: the hold condition of a one-wire mode is the watched wire's comparator bit, which the other sample does not
enter. -/
theorem unwatchedWireHasNoInfluence : Obligations.UnwatchedWireHasNoInfluence := by
  unfold Obligations.UnwatchedWireHasNoInfluence
  intro p b b' i x tr k hf hstep
  have hstep' : StepsTo (State.mk' p b (i :: tr) k) b' := hstep
  refine ⟨fun hmode => ?aOnly, fun hmode => ?bOnly⟩
  case aOnly =>
    refine hstep'.of_samples hf (x := i.rawA) (y := x) ?_
    rw [Block.holdBit_of_aOnly hmode, Block.holdBit_of_aOnly hmode, Block.blwA_withSamples]
  case bOnly =>
    refine hstep'.of_samples hf (x := x) (y := i.rawB) ?_
    rw [Block.holdBit_of_bOnly hmode, Block.holdBit_of_bOnly hmode, Block.blwB_withSamples]

/-- Settles O14: HOLD's rule leaves the registers, and its condition does not name the classifiers. -/
theorem holdChangesNothing : Obligations.HoldChangesNothing := by
  unfold Obligations.HoldChangesNothing
  exact fun s => ⟨EventLeaves.exec_eq (e := .hold) rfl,
    fun ht hen hf hh => State.event_eq_iff.mpr ⟨ht, hen, hf, hh⟩⟩

/-- Settles O15: RELEASE's rule is `Block.release`, and its condition does not name the classifiers. -/
theorem releaseClearsTheOutput : Obligations.ReleaseClearsTheOutput := by
  unfold Obligations.ReleaseClearsTheOutput
  exact fun s => ⟨EventLeaves.exec_eq (e := .release) rfl,
    fun ht hen hf hh => State.event_eq_iff.mpr ⟨ht, hen, hf, hh⟩⟩

/-- Settles O36: the three modes by their comparator bits, and FLOOR = 0 by `below_zero`. -/
theorem holdConditionByMode : Obligations.HoldConditionByMode := by
  unfold Obligations.HoldConditionByMode
  exact fun n vw lw b i => ⟨Block.holdBit_of_both, Block.holdBit_of_aOnly, Block.holdBit_of_bOnly,
    Block.holdBit_of_floor_zero⟩

end Sys2Proof.Machine

/-! SUPPORT. The proofs of the family 44_dispatch.md: the slots of a wire, the emission register by register, and the
three ways a dispatch cycle can end. -/

namespace Sys2Proof.Machine

/-! The slots of a wire, `{wire, idx}` (30_encoding.md R57), and the registers they name (10_state.md R12, R14). -/

section Slots

theorem slotOf_a_eq_setWidth (k : Idx) : slotOf .a k = k.setWidth 3 := by revert k; decide

theorem slotOf_b_eq_setWidth (k : Idx) : slotOf .b k = 4 + k.setWidth 3 := by revert k; decide

theorem slotOf_a_lt_four (k : Idx) : slotOf .a k < 4 := by revert k; decide

theorem slotOf_b_not_lt_four (k : Idx) : ¬slotOf .b k < 4 := by revert k; decide

theorem slotOf_extract_idx (w : Wire) (k : Idx) : (slotOf w k).extractLsb' 0 2 = k := by
  cases w <;> revert k <;> decide

variable {α : Type} (f : Vector α 8) (k : Idx)

theorem readSlot_slotOf_a : readSlot f (slotOf .a k) = f[k.toNat]'(by have := k.isLt; omega) := by
  simp only [readSlot, slotOf_a_toNat]

theorem readSlot_slotOf_b : readSlot f (slotOf .b k) = f[4 + k.toNat]'(by have := k.isLt; omega) := by
  simp only [readSlot, slotOf_b_toNat]

end Slots

/-! The operations of a dispatch cycle in terms of register positions (44_dispatch.md R100, R101, R103). -/

section Positions

variable {n vw lw : Nat} (b : Block vw lw) (i : Inputs n vw)

theorem Block.emit_slotOf_a (k : Idx) :
    b.emit (slotOf .a k) = { b with
      out := b.act[k.toNat]'(by have := k.isLt; omega), slot := slotOf .a k, res := .matched, fsm := .hold } := by
  rw [Block.emit, readSlot_slotOf_a]

theorem Block.emit_slotOf_b (k : Idx) :
    b.emit (slotOf .b k) = { b with
      out := b.act[4 + k.toNat]'(by have := k.isLt; omega), slot := slotOf .b k, res := .matched, fsm := .hold } := by
  rw [Block.emit, readSlot_slotOf_b]

/-- "Wire A is classified against TRIG[0..3]": WIREMAP is not asked. -/
theorem Block.clsA_by_position :
    b.clsA i = classify (volt i.rawA b.vref) b.floor.toNat
      (fun k => (b.trig[k.toNat]'(by have := k.isLt; omega)).toNat) := by
  have htriggers : b.triggers .a = fun k => (b.trig[k.toNat]'(by have := k.isLt; omega)).toNat :=
    funext fun k => congrArg BitVec.toNat (readSlot_slotOf_a b.trig k)
  rw [Block.clsA, Block.va, htriggers]

/-- "wire B against TRIG[4..7]": WIREMAP is not asked. -/
theorem Block.clsB_by_position :
    b.clsB i = classify (volt i.rawB b.vref) b.floor.toNat
      (fun k => (b.trig[4 + k.toNat]'(by have := k.isLt; omega)).toNat) := by
  have htriggers : b.triggers .b = fun k => (b.trig[4 + k.toNat]'(by have := k.isLt; omega)).toNat :=
    funext fun k => congrArg BitVec.toNat (readSlot_slotOf_b b.trig k)
  rw [Block.clsB, Block.vb, htriggers]

variable {b i} {k : Idx}

theorem Block.inWindow_of_clsA (h : b.clsA i = some k) : InWindow (b.va i) b.floor.toNat (b.triggers .a) k :=
  (greatest_window_of_classify h).1

theorem Block.inWindow_of_clsB (h : b.clsB i = some k) : InWindow (b.vb i) b.floor.toNat (b.triggers .b) k :=
  (greatest_window_of_classify h).1

end Positions

/-! The three ways a dispatch cycle can end, and the emission without a match. -/

section Cycle

variable {s : State} {b : Block s.params.voltBits s.params.levelBits}

/-- In run mode a dispatch cycle emits what wire A classifies to, whatever wire B shows (44_dispatch.md R100). -/
theorem stepsTo_emit_a {k : Idx} (htick : s.inputs.IsTick) (hen : s.block.en = true) (hf : s.block.fsm = .idle)
    (ha : s.block.clsA s.inputs = some k) : StepsTo s (s.block.emit (slotOf .a k)) :=
  stepsTo_emit hen hf htick (Block.emits_iff.mpr (.inl ⟨k, ha, rfl⟩))

/-- In run mode a dispatch cycle emits what wire B classifies to where wire A matches nothing (44_dispatch.md R101). -/
theorem stepsTo_emit_b {k : Idx} (htick : s.inputs.IsTick) (hen : s.block.en = true) (hf : s.block.fsm = .idle)
    (ha : s.block.clsA s.inputs = none) (hb : s.block.clsB s.inputs = some k) :
    StepsTo s (s.block.emit (slotOf .b k)) :=
  stepsTo_emit hen hf htick (Block.emits_iff.mpr (.inr ⟨ha, k, hb, rfl⟩))

/-- In run mode a dispatch cycle that matches nothing leaves the registers of NOACT (44_dispatch.md R102). -/
theorem stepsTo_noMatch (htick : s.inputs.IsTick) (hen : s.block.en = true) (hf : s.block.fsm = .idle)
    (ha : s.block.clsA s.inputs = none) (hb : s.block.clsB s.inputs = none) : StepsTo s s.block.noMatch :=
  Block.Selects.stepsTo (e := .noact) ⟨htick, hen, hf, ha, hb⟩ rfl

/-- What a dispatch cycle leaves is wire A's emission, else wire B's, else no match (44_dispatch.md R103). -/
theorem StepsTo.dispatch_cases (h : StepsTo s b) (htick : s.inputs.IsTick) (hen : s.block.en = true)
    (hf : s.block.fsm = .idle) :
    (∃ k, s.block.clsA s.inputs = some k ∧ b = s.block.emit (slotOf .a k))
      ∨ (∃ k, s.block.clsA s.inputs = none ∧ s.block.clsB s.inputs = some k ∧ b = s.block.emit (slotOf .b k))
      ∨ (s.block.clsA s.inputs = none ∧ s.block.clsB s.inputs = none ∧ b = s.block.noMatch) := by
  cases ha : s.block.clsA s.inputs with
  | some k => exact .inl ⟨k, rfl, h.unique (stepsTo_emit_a htick hen hf ha)⟩
  | none =>
    cases hb : s.block.clsB s.inputs with
    | some k => exact .inr (.inl ⟨k, rfl, rfl, h.unique (stepsTo_emit_b htick hen hf ha hb)⟩)
    | none => exact .inr (.inr ⟨rfl, rfl, h.unique (stepsTo_noMatch htick hen hf ha hb)⟩)

theorem exec_emitA_of_none (h : s.block.clsA s.inputs = none) : exec .emitA s = .refused (.noMatchToEmit .a) := by
  simp only [exec, execEmitA, h]

theorem exec_emitB_of_none (h : s.block.clsB s.inputs = none) : exec .emitB s = .refused (.noMatchToEmit .b) := by
  simp only [exec, execEmitB, h]

end Cycle

/-! The obligations of the family. -/

/-- Settles O44: the classifiers and the emissions by position, then one clock edge per branch of DISPATCH. -/
theorem dispatchCycleAsOneFunction : Obligations.DispatchCycleAsOneFunction := by
  unfold Obligations.DispatchCycleAsOneFunction
  intro s htick hen hf
  rw [← Block.clsA_by_position, ← Block.clsB_by_position]
  cases ha : s.block.clsA s.inputs with
  | some k =>
    simp only [← slotOf_a_eq_setWidth, ← Block.emit_slotOf_a]
    exact stepsTo_emit_a htick hen hf ha
  | none =>
    cases hb : s.block.clsB s.inputs with
    | some k =>
      simp only [← slotOf_b_eq_setWidth, ← Block.emit_slotOf_b]
      exact stepsTo_emit_b htick hen hf ha hb
    | none => exact stepsTo_noMatch htick hen hf ha hb

/-- Settles O45: in each of the three ends of the cycle the slot left is its wire's, and that wire's classifier found the
reading in the slot's window. -/
theorem emittedSlotComesFromItsWire : Obligations.EmittedSlotComesFromItsWire := by
  unfold Obligations.EmittedSlotComesFromItsWire
  intro s b htick hen hf hstep
  obtain ⟨k, ha, rfl⟩ | ⟨k, ha, hb, rfl⟩ | ⟨ha, hb, rfl⟩ := hstep.dispatch_cases htick hen hf
  · have hlt : slotOf .a k < 4 := slotOf_a_lt_four k
    have hwindow := Block.inWindow_of_clsA ha
    rw [← slotOf_extract_idx .a k] at hwindow
    exact ⟨by simp [ha], by simp, fun _ => iff_of_true hlt (by simp [ha]), fun _ _ => hwindow, fun _ h => absurd hlt h,
      fun _ => rfl⟩
  · have hge : ¬slotOf .b k < 4 := slotOf_b_not_lt_four k
    have hwindow := Block.inWindow_of_clsB hb
    rw [← slotOf_extract_idx .b k] at hwindow
    exact ⟨by simp [hb], by simp, fun _ => iff_of_false hge (by simp [ha]), fun _ h => absurd h hge,
      fun _ _ => ⟨ha, hwindow⟩, fun _ => rfl⟩
  · have hidle : s.block.noMatch.fsm ≠ .hold := by simp [hf]
    exact ⟨by simp [ha, hb, hf], by simp [hf], fun h => absurd h hidle, fun h => absurd h hidle,
      fun h => absurd h hidle, fun h => absurd h hidle⟩

/-- Settles O11: EMIT_A's rule with the slot by position, and its condition names neither wire B nor the hold bit. -/
theorem emitAEmitsWireASlot : Obligations.EmitAEmitsWireASlot := by
  unfold Obligations.EmitAEmitsWireASlot
  exact fun s k hk => ⟨EventLeaves.exec_eq (e := .emitA) ⟨k, hk, (s.block.emit_slotOf_a k).symm⟩,
    fun ht hen hf => State.event_eq_iff.mpr ⟨ht, hen, hf, k, hk⟩⟩

/-- Settles O12: EMIT_B's rule with the slot by position, and its condition asks wire A to match nothing. -/
theorem emitBEmitsWireBSlot : Obligations.EmitBEmitsWireBSlot := by
  unfold Obligations.EmitBEmitsWireBSlot
  exact fun s k hk => ⟨EventLeaves.exec_eq (e := .emitB) ⟨k, hk, (s.block.emit_slotOf_b k).symm⟩,
    fun ht hen hf ha => State.event_eq_iff.mpr ⟨ht, hen, hf, ha, k, hk⟩⟩

/-- Settles O13: NOACT's rule is `Block.noMatch`, and its condition asks both wires to match nothing. -/
theorem noactRecordsNoMatch : Obligations.NoactRecordsNoMatch := by
  unfold Obligations.NoactRecordsNoMatch
  exact fun s => ⟨EventLeaves.exec_eq (e := .noact) rfl,
    fun ht hen hf ha hb => State.event_eq_iff.mpr ⟨ht, hen, hf, ha, hb⟩⟩

/-- Settles O16: the condition of each emission gives its wire a slot, so without one the event is another. -/
theorem emissionWithoutMatchIsRefused : Obligations.EmissionWithoutMatchIsRefused := by
  unfold Obligations.EmissionWithoutMatchIsRefused
  refine fun s => ⟨fun ha => ⟨exec_emitA_of_none ha, fun hev => ?emitA⟩,
    fun hb => ⟨exec_emitB_of_none hb, fun hev => ?emitB⟩⟩
  case emitA =>
    obtain ⟨-, -, -, k, hk⟩ := State.event_eq_iff.mp hev
    simp [ha] at hk
  case emitB =>
    obtain ⟨-, -, -, -, k, hk⟩ := State.event_eq_iff.mp hev
    simp [hb] at hk

end Sys2Proof.Machine

/-! SUPPORT. The proofs of the family 45_host_events.md: CFGWR index by index, and clocks that change no register. -/

namespace Sys2Proof.Machine

/-! The register write on CTRL (45_host_events.md R110, 10_state.md R16). -/

/-- The mode a write of the bits `x` leaves where it was `m`: the reserved value 3 is not taken (30_encoding.md R58). -/
theorem RelMode.ofBits_getD (x : BitVec 2) (m : RelMode) :
    (RelMode.ofBits x).getD m = match x.toNat with
      | 0 => .both
      | 1 => .aOnly
      | 2 => .bOnly
      | _ => m := by
  match x with
  | 0 => rfl
  | 1 => rfl
  | 2 => rfl
  | 3 => rfl

/-- A write to CTRL, in terms of the release mode `m` it would leave in configuration mode. -/
theorem Block.regWrite_ctrl {vw lw : Nat} {b : Block vw lw} {idx : RegIndex} (h : idx = 0x00) {d : BitVec vw}
    {m : RelMode} (hm : (RelMode.ofBits (d.extractLsb' 1 2)).getD b.relmode = m) :
    b.regWrite idx d
      = { b with relmode := if b.en then b.relmode else m, en := b.en || d.getLsbD 0 } := by
  rw [Block.regWrite, if_pos h, Block.writeCtrl, hm]

/-! What `exec` of CFGWR answers, by the register the index on the port names. -/

section Write

variable {s : State}

/-- CFGWR answers the registers its write leaves, and nothing else changes. -/
theorem exec_cfgwr_of_regWrite {b : Block s.params.voltBits s.params.levelBits}
    (h : s.block.regWrite s.inputs.cfgIdx s.inputs.cfgWdata = b) : exec .cfgwr s = .next (s.withBlock b) :=
  EventLeaves.exec_eq (e := .cfgwr) h.symm

/-- In configuration mode CFGWR writes the register whose index is on the port. -/
theorem exec_cfgwr_of_index (hen : s.block.en = false) (r : Reg) (h : s.inputs.cfgIdx = r.index) :
    exec .cfgwr s = .next (s.withBlock (s.block.writeReg s.inputs.cfgWdata r)) :=
  exec_cfgwr_of_regWrite (Block.regWrite_of_reg hen (h ▸ regOfIndex_index r) _)

/-- STATUS, OUT and the reserved indices ignore a write (45_host_events.md R110). -/
theorem exec_cfgwr_ignored (hen : s.block.en = false)
    (h : s.inputs.cfgIdx = 0x01 ∨ s.inputs.cfgIdx = 0x06 ∨ s.inputs.cfgIdx = 0x07 ∨ 0x18 ≤ s.inputs.cfgIdx) :
    exec .cfgwr s = .next s := by
  obtain hstatus | hout | hreserved := h
  · exact exec_cfgwr_of_index hen .status hstatus
  · exact exec_cfgwr_of_index hen .out hout
  · exact exec_cfgwr_of_regWrite (Block.regWrite_of_reserved (regOfIndex_reserved hreserved) _)

end Write

/-! Runs over clocks that change nothing. -/

/-- A run over clocks each of which leaves the registers `b` as they are ends with `b`. -/
theorem runSteps_of_unchanged {p : Params} {b : Block p.voltBits p.levelBits}
    {quiet : List (Inputs p.adcBits p.voltBits)}
    (h : ∀ x ∈ quiet, ∀ tr k, StepsTo (State.mk' p b (x :: tr) k) b)
    (tr : List (Inputs p.adcBits p.voltBits)) (k : Nat) :
    runSteps quiet.length (State.mk' p b (quiet ++ tr) k) = .next (State.mk' p b tr (k + quiet.length)) := by
  induction quiet generalizing k with
  | nil => rfl
  | cons x quiet ih =>
    calc runSteps (quiet.length + 1) (State.mk' p b (x :: (quiet ++ tr)) k)
        = runSteps quiet.length (State.mk' p b (quiet ++ tr) (k + 1)) :=
          runSteps_succ _ (h x List.mem_cons_self (quiet ++ tr) k)
      _ = .next (State.mk' p b tr (k + 1 + quiet.length)) := ih (fun y hy => h y (List.mem_cons_of_mem x hy)) (k + 1)
      _ = .next (State.mk' p b tr (k + (quiet.length + 1))) := by rw [Nat.add_assoc, Nat.add_comm 1]

/-! The obligations of the family. -/

/-- Settles O8: CTRL by `Block.regWrite_ctrl`, the lock by `Block.regWrite_locked`, and in configuration mode any other
index by the register it names. -/
theorem cfgwrWritesOneRegister : Obligations.CfgwrWritesOneRegister := by
  unfold Obligations.CfgwrWritesOneRegister
  refine fun s => ⟨fun hrst hwe => State.event_eq_iff.mpr ⟨hrst, hwe⟩, fun h => ?ctrl, fun _ hen => ?locked,
    fun hen => ⟨exec_cfgwr_of_index hen .vref, exec_cfgwr_of_index hen .floor, exec_cfgwr_of_index hen .tol,
      exec_cfgwr_of_index hen .wiremap, fun k h => ?trig, fun k h => ?act, exec_cfgwr_ignored hen⟩⟩
  case ctrl => exact exec_cfgwr_of_regWrite (Block.regWrite_ctrl h (RelMode.ofBits_getD _ _))
  case locked => exact exec_cfgwr_of_regWrite (s.block.regWrite_locked _ _ hen)
  case trig => exact exec_cfgwr_of_index hen (.trig k) (h.trans (index_of_regOfIndex (regOfIndex_trig k)).symm)
  case act => exact exec_cfgwr_of_index hen (.act k) (h.trans (index_of_regOfIndex (regOfIndex_act k)).symm)

/-- Settles O9: NOP's rule leaves the registers, so a run over clocks without a strobe leaves them too. -/
theorem nopChangesNothing : Obligations.NopChangesNothing := by
  unfold Obligations.NopChangesNothing
  exact ⟨fun s => ⟨EventLeaves.exec_eq (e := .nop) rfl, fun h => State.event_eq_iff.mpr h⟩,
    fun p b nops tr k hnops =>
      runSteps_of_unchanged (fun x hx _ _ => Block.Selects.stepsTo (e := .nop) (hnops x hx) rfl) tr k⟩

/-- Settles O10: TICKOFF's rule leaves the registers, and its condition names neither the samples nor STATE. -/
theorem tickoffChangesNothing : Obligations.TickoffChangesNothing := by
  unfold Obligations.TickoffChangesNothing
  exact fun s => ⟨EventLeaves.exec_eq (e := .tickoff) rfl, fun ht hen => State.event_eq_iff.mpr ⟨ht, hen⟩⟩

end Sys2Proof.Machine

/-! SUPPORT. The proofs of the family 60_exceptions.md: no stuck state, the two operating modes, and the tick period
that no rule reads. -/

namespace Sys2Proof

/-- The parameters with another POLL_INTERVAL: a block of them has the same registers and ports. -/
abbrev Params.withPollInterval (p : Params) (q : Nat) : Params := { p with pollInterval := q }

end Sys2Proof

namespace Sys2Proof.Machine

/-! EN after a clock edge (60_exceptions.md R125, 10_state.md R16). -/

section Enable

variable {s : State} {b : Block s.params.voltBits s.params.levelBits}

theorem StepsTo.en_of_rst (h : StepsTo s b) (hrst : s.inputs.rst = true) : b.en = false := by
  obtain ⟨-, hzero⟩ := stepsTo_zero_of_rst hrst
  rw [h.unique hzero]; rfl

theorem StepsTo.en_of_write (h : StepsTo s b) (hrst : s.inputs.rst = false) (hwe : s.inputs.cfgWe = true) :
    b.en = (s.block.en || (decide (s.inputs.cfgIdx = 0x00) && s.inputs.cfgWdata.getLsbD 0)) := by
  have hb : StepsTo s (s.block.regWrite s.inputs.cfgIdx s.inputs.cfgWdata) :=
    Block.Selects.stepsTo (e := .cfgwr) ⟨hrst, hwe⟩ rfl
  rw [h.unique hb, Block.regWrite_en]

/-- Without `rst` and `cfg_we` a clock edge keeps EN. -/
theorem StepsTo.en_of_no_write (h : StepsTo s b) (hrst : s.inputs.rst = false) (hwe : s.inputs.cfgWe = false) :
    b.en = s.block.en := by
  have hreset : s.event ≠ .reset := fun he => by
    have hr : s.inputs.rst = true := State.event_eq_iff.mp he
    simp [hrst] at hr
  have hcfgwr : s.event ≠ .cfgwr := fun he => by
    obtain ⟨-, hw⟩ : s.block.Selects s.inputs .cfgwr := State.event_eq_iff.mp he
    simp [hwe] at hw
  obtain ⟨hen, -⟩ := h.leaves.keeps_record hreset fun he => absurd he hcfgwr
  exact hen

end Enable

/-! Another tick period (60_exceptions.md R126). -/

section PollInterval

variable {p : Params} {b b' : Block p.voltBits p.levelBits} {tr : List (Inputs p.adcBits p.voltBits)} {k : Nat}

/-- The event is selected without a look at POLL_INTERVAL: the registers and the inputs of the clock, listed or free,
are those of the widths alone. -/
theorem State.event_withPollInterval (q : Nat) :
    (State.mk' (p.withPollInterval q) b tr k).event = (State.mk' p b tr k).event := rfl

/-- The rule of every event leaves the same registers whatever POLL_INTERVAL is. -/
theorem EventLeaves.withPollInterval {e : Instr} (h : EventLeaves (State.mk' p b tr k) b' e) (q : Nat) :
    EventLeaves (State.mk' (p.withPollInterval q) b tr k) b' e := by
  cases e with
  | reset | cfgwr | nop | tickoff | noact | hold | release => cases h; rfl
  | emitA | emitB =>
    obtain ⟨j, hj, rfl⟩ := h
    exact ⟨j, hj, rfl⟩

theorem StepsTo.withPollInterval (h : StepsTo (State.mk' p b tr k) b') (q : Nat) :
    StepsTo (State.mk' (p.withPollInterval q) b tr k) b' := by
  have hl : EventLeaves (State.mk' (p.withPollInterval q) b tr k) b' (State.mk' p b tr k).event :=
    h.leaves.withPollInterval q
  rw [← State.event_withPollInterval q] at hl
  exact stepsTo_iff_leaves.mpr hl

end PollInterval

/-! The obligations of the family. -/

/-- Settles O21: some event is selected in every clock, and its rule leaves registers. -/
theorem everyStepCompletes : Obligations.EveryStepCompletes := by
  unfold Obligations.EveryStepCompletes
  exact exists_stepsTo

/-- Settles O24: RESET clears EN, a configuration write can only set it, and every other event keeps it. -/
theorem runModeIsEnteredByCtrlAndLeftByReset : Obligations.RunModeIsEnteredByCtrlAndLeftByReset := by
  unfold Obligations.RunModeIsEnteredByCtrlAndLeftByReset
  intro s b hstep
  cases hrst : s.inputs.rst with
  | true => simp [hstep.en_of_rst hrst]
  | false =>
    cases hwe : s.inputs.cfgWe with
    | true => simp [hstep.en_of_write hrst hwe]
    | false => simp [hstep.en_of_no_write hrst hwe]

/-- Settles O55: the same event is selected under any tick period, and its rule leaves the same registers. -/
theorem pollIntervalIsReadByNothing : Obligations.PollIntervalIsReadByNothing := by
  unfold Obligations.PollIntervalIsReadByNothing
  intro p q b b' tr k hstep
  have hstep' : StepsTo (State.mk' p b tr k) b' := hstep
  exact hstep'.withPollInterval q

end Sys2Proof.Machine

/-! SUPPORT. The proofs of the family 70_reset_and_hazards.md: the writes that are dropped, the enabling write, a press that
lasts, and the two registers no tick reads. -/

namespace Sys2Proof.Machine

/-! The writes that are dropped (70_reset_and_hazards.md R146). -/

section Drops

variable {vw lw : Nat} (b : Block vw lw) {idx : RegIndex} (d : BitVec vw)

/-- STATUS, OUT and the reserved indices ignore a write, in both modes. -/
theorem Block.regWrite_ignored (h : idx = 0x01 ∨ idx = 0x06 ∨ idx = 0x07 ∨ 0x18 ≤ idx) : b.regWrite idx d = b := by
  cases hen : b.en with
  | true => exact b.regWrite_locked idx d hen
  | false =>
    obtain rfl | rfl | hreserved := h
    · exact Block.regWrite_of_reg (r := .status) hen rfl d
    · exact Block.regWrite_of_reg (r := .out) hen rfl d
    · exact Block.regWrite_of_reserved (regOfIndex_reserved hreserved) d

/-- A write of CTRL with RELMODE 3 keeps the mode; its EN bit acts all the same. -/
theorem Block.regWrite_ctrl_reserved_mode (h : idx = 0x00) (hd : d.extractLsb' 1 2 = 3) :
    b.regWrite idx d = { b with en := b.en || d.getLsbD 0 } := by
  have hmode : (RelMode.ofBits (d.extractLsb' 1 2)).getD b.relmode = b.relmode := by rw [hd]; rfl
  rw [Block.regWrite_ctrl h hmode, ite_self]

end Drops

/-- A configuration write is performed whatever `tick` shows (45_host_events.md R110). -/
theorem stepsTo_regWrite {s : State} (hrst : s.inputs.rst = false) (hwe : s.inputs.cfgWe = true) :
    StepsTo s (s.block.regWrite s.inputs.cfgIdx s.inputs.cfgWdata) :=
  Block.Selects.stepsTo (e := .cfgwr) ⟨hrst, hwe⟩ rfl

/-! The enabling write (70_reset_and_hazards.md R147). -/

section Enabling

/-- The mode field of a number written to CTRL. -/
theorem extract_relmode_ofNat {vw : Nat} (hvw : 3 ≤ vw) (v : Nat) :
    (BitVec.ofNat vw v).extractLsb' 1 2 = BitVec.ofNat 2 (v / 2) := by
  have hpow : 2 ^ vw = 8 * 2 ^ (vw - 3) := by
    rw [show (8 : Nat) = 2 ^ 3 from rfl, ← pow_add, Nat.add_sub_cancel' hvw]
  have hmod : v % 2 ^ vw % 8 = v % 8 := Nat.mod_mod_of_dvd v ⟨_, hpow⟩
  apply BitVec.eq_of_toNat_eq
  simp only [BitVec.extractLsb'_toNat, BitVec.toNat_ofNat, Nat.shiftRight_eq_div_pow]
  omega

theorem ofBits_modeNumber (m : RelMode) : RelMode.ofBits (BitVec.ofNat 2 (modeNumber m)) = some m := by
  cases m <;> rfl

variable {p : Params} {b : Block p.voltBits p.levelBits}

/-- In configuration mode `CFGWR CTRL, v` leaves the mode and the EN bit of `v`. -/
theorem stepsTo_ctrl_write (hp : p.wf = true) (hen : b.en = false) {v : Nat} {m : RelMode}
    (hm : RelMode.ofBits (BitVec.ofNat 2 (v / 2)) = some m) (tr : List (Inputs p.adcBits p.voltBits)) (k : Nat) :
    StepsTo (State.mk' p b ((TraceLine.cfgwr 0 v).inputs p.adcBits p.voltBits :: tr) k)
      { b with en := v.testBit 0, relmode := m } := by
  obtain ⟨hvw, -⟩ := widths_of_params_wf hp
  have hmode : (RelMode.ofBits ((BitVec.ofNat p.voltBits v).extractLsb' 1 2)).getD b.relmode = m := by
    rw [extract_relmode_ofNat (by omega), hm]; rfl
  have hbit : (BitVec.ofNat p.voltBits v).getLsbD 0 = v.testBit 0 := by
    rw [BitVec.getLsbD_ofNat, decide_eq_true (by omega), Bool.true_and]
  have hwrite : b.regWrite 0x00 (BitVec.ofNat p.voltBits v) = { b with en := v.testBit 0, relmode := m } := by
    rw [Block.regWrite_ctrl rfl hmode, hbit, hen]; rfl
  rw [← hwrite]
  exact stepsTo_regWrite rfl rfl

end Enabling

/-! A press that lasts (70_reset_and_hazards.md R143). -/

section Press

variable {p : Params} {b : Block p.voltBits p.levelBits} {s : Slot}

/-- The registers after tick `m`, counted from 0, of a press that emits slot `s`: the emission after an even tick, its
release after an odd one. -/
def Block.pressed {vw lw : Nat} (b : Block vw lw) (s : Slot) (m : Nat) : Block vw lw :=
  if m % 2 = 0 then b.emit s else (b.emit s).release

theorem Block.pressed_even {vw lw : Nat} (b : Block vw lw) (s : Slot) {m : Nat} (h : m % 2 = 0) :
    b.pressed s m = b.emit s := if_pos h

theorem Block.pressed_odd {vw lw : Nat} (b : Block vw lw) (s : Slot) {m : Nat} (h : m % 2 = 1) :
    b.pressed s m = (b.emit s).release := if_neg (by omega)

/-- The part a tick plays in a press on slot `s`: an even one emits the slot, an odd one does not keep holding. -/
abbrev Block.PressTick {n vw lw : Nat} (b : Block vw lw) (s : Slot) (m : Nat) (x : Inputs n vw) : Prop :=
  x.IsTick ∧ (m % 2 = 0 → b.Emits x s)
    ∧ (m % 2 = 1 → (b.blwA x = false ∧ b.blwB x = false) ∨ b.holdBit x = false)

theorem Block.PressTick.holdBit_eq_false {n vw lw : Nat} {b : Block vw lw} {m : Nat} {x : Inputs n vw}
    (h : b.PressTick s m x) (hm : m % 2 = 1) : b.holdBit x = false := by
  obtain ⟨-, -, hpoll⟩ := h
  obtain ⟨hA, hB⟩ | hhold := hpoll hm
  · exact Block.holdBit_of_above_floor hA hB
  · exact hhold

/-- The ticks of a press go on alternating: neither the emission nor its release changes what a sample classifies to or
whether it keeps holding. -/
theorem stepsTo_pressed_succ (hen : b.en = true) {m : Nat} {x : Inputs p.adcBits p.voltBits}
    (hx : b.PressTick s (m + 1) x) (tr : List (Inputs p.adcBits p.voltBits)) (k : Nat) :
    StepsTo (State.mk' p (b.pressed s m) (x :: tr) k) (b.pressed s (m + 1)) := by
  have ⟨htick, hemits, _⟩ := hx
  obtain hm | hm := Nat.mod_two_eq_zero_or_one m
  · have hm' : (m + 1) % 2 = 1 := by omega
    rw [b.pressed_even s hm, b.pressed_odd s hm']
    exact stepsTo_release hen rfl htick (hx.holdBit_eq_false hm')
  · have hm' : (m + 1) % 2 = 0 := by omega
    rw [b.pressed_odd s hm, b.pressed_even s hm']
    exact stepsTo_emit hen rfl htick (hemits hm')

/-- A run over the first `m + 1` ticks of a press. -/
theorem runSteps_of_press (hen : b.en = true) (hf : b.fsm = .idle) {press : List (Inputs p.adcBits p.voltBits)}
    (hpress : ∀ (m : Nat) (h : m < press.length), b.PressTick s m press[m])
    (tr : List (Inputs p.adcBits p.voltBits)) (k : Nat) {m : Nat} (hm : m < press.length) :
    runSteps (m + 1) (State.mk' p b (press ++ tr) k)
      = .next (State.mk' p (b.pressed s m) (press.drop (m + 1) ++ tr) (k + (m + 1))) := by
  have hnext {m : Nat} (h : m < press.length) : press.drop m ++ tr = press[m] :: (press.drop (m + 1) ++ tr) := by
    rw [List.drop_eq_getElem_cons h, List.cons_append]
  induction m with
  | zero =>
    obtain ⟨htick, hemits, -⟩ := hpress 0 hm
    have hfirst : press ++ tr = press[0] :: (press.drop 1 ++ tr) := hnext hm
    rw [hfirst]
    exact runSteps_succ 0 (stepsTo_emit hen hf htick (hemits rfl))
  | succ m ih =>
    rw [runSteps_add (ih (Nat.lt_of_succ_lt hm)) 1, hnext hm]
    exact runSteps_succ 0 (stepsTo_pressed_succ hen (hpress (m + 1) hm) _ _)

end Press

/-! WIREMAP and TOL are read by no tick (70_reset_and_hazards.md R144, 10_state.md R20, R21). -/

section Decoder

/-- The registers with other values of WIREMAP and TOL. -/
def Block.withDecoder {vw lw : Nat} (b : Block vw lw) (w : BitVec 8) (t : BitVec vw) : Block vw lw :=
  { b with wiremap := w, tol := t }

variable {p : Params} {b b' : Block p.voltBits p.levelBits} {tr : List (Inputs p.adcBits p.voltBits)} {k : Nat}

/-- The event is selected without a look at WIREMAP and TOL. -/
theorem State.event_withDecoder (w : BitVec 8) (t : BitVec p.voltBits) :
    (State.mk' p (b.withDecoder w t) tr k).event = (State.mk' p b tr k).event := rfl

/-- Every event but RESET and CFGWR carries other values of WIREMAP and TOL along. -/
theorem EventLeaves.withDecoder {e : Instr} (h : EventLeaves (State.mk' p b tr k) b' e) (hr : e ≠ .reset)
    (hc : e ≠ .cfgwr) (w : BitVec 8) (t : BitVec p.voltBits) :
    EventLeaves (State.mk' p (b.withDecoder w t) tr k) (b'.withDecoder w t) e := by
  cases e with
  | reset => exact absurd rfl hr
  | cfgwr => exact absurd rfl hc
  | nop | tickoff | noact | hold | release => cases h; rfl
  | emitA | emitB =>
    obtain ⟨j, hj, rfl⟩ := h
    exact ⟨j, hj, rfl⟩

/-- A tick performs neither RESET nor CFGWR (30_encoding.md R55). -/
theorem State.event_of_isTick {s : State} (h : s.inputs.IsTick) : s.event ≠ .reset ∧ s.event ≠ .cfgwr := by
  obtain ⟨hrst, hwe, -⟩ := h
  refine ⟨fun he => ?reset, fun he => ?cfgwr⟩
  case reset =>
    have hrst' : s.inputs.rst = true := State.event_eq_iff.mp he
    simp [hrst] at hrst'
  case cfgwr =>
    obtain ⟨-, hwe'⟩ : s.block.Selects s.inputs .cfgwr := State.event_eq_iff.mp he
    simp [hwe] at hwe'

end Decoder

/-! WIREMAP against the positions the dispatch cycle goes by (70_reset_and_hazards.md R144, R140). -/

section Wiremap

theorem exists_slotOf : ∀ s : Slot, s = slotOf .a (s.extractLsb' 0 2) ∨ s = slotOf .b (s.extractLsb' 0 2) := by decide

theorem wireOfMap_eq_b_iff {w : BitVec 8} {s : Slot} : wireOfMap w s = .b ↔ w.getLsbD s.toNat = true := by
  unfold wireOfMap
  split <;> simp_all

/-- WIREMAP is known from the wires it names (10_state.md R21). -/
theorem wireOfMap_injective : Function.Injective wireOfMap := by
  intro w w' h
  refine BitVec.eq_of_getLsbD_eq fun s hs => ?_
  have hslot : (BitVec.ofNat 3 s).toNat = s := Nat.mod_eq_of_lt hs
  rw [← hslot, Bool.eq_iff_iff, ← wireOfMap_eq_b_iff, ← wireOfMap_eq_b_iff, h]

/-- The map the host owes the block names every slot's wire by position (70_reset_and_hazards.md R140). -/
theorem wireOfMap_f0_slotOf (wire : Wire) (i : Idx) : wireOfMap 0xF0 (slotOf wire i) = wire := by
  cases wire <;> revert i <;> decide

end Wiremap

/-! The obligations of the family. -/

/-- Settles O42: each drop is a write that RegWrite ignores in whole or in part, and CFGWR comes before the tick. -/
theorem silentDrops : Obligations.SilentDrops := by
  unfold Obligations.SilentDrops
  intro s hrst hwe
  have hstep := stepsTo_regWrite hrst hwe
  refine ⟨fun hen => ?locked, fun h => ?ignored, fun h hd => ?mode, fun _ => ?tick⟩
  case locked => rwa [s.block.regWrite_locked _ _ hen] at hstep
  case ignored => rwa [s.block.regWrite_ignored _ h] at hstep
  case mode => rwa [s.block.regWrite_ctrl_reserved_mode _ h hd] at hstep
  case tick =>
    obtain ⟨hfsm, hres, hslot, hout⟩ := s.block.regWrite_sequencing s.inputs.cfgIdx s.inputs.cfgWdata
    exact ⟨State.event_eq_iff.mpr ⟨hrst, hwe⟩, _, hstep, hfsm, hout, hres, hslot⟩

/-- Settles O43: the first write leaves A_ONLY and configuration mode, so the second still writes the mode, to BOTH. -/
theorem enablingWriteCarriesTheMode : Obligations.EnablingWriteCarriesTheMode := by
  unfold Obligations.EnablingWriteCarriesTheMode
  intro p b tr k hp hen
  constructor
  · have hfirst := stepsTo_ctrl_write hp hen (v := 2) (m := .aOnly) rfl
      ((TraceLine.cfgwr 0 1).inputs p.adcBits p.voltBits :: tr) k
    have hsecond := stepsTo_ctrl_write (b := { b with en := false, relmode := .aOnly }) hp rfl (v := 1) (m := .both) rfl
      tr (k + 1)
    exact (runSteps_succ 1 hfirst).trans (runSteps_succ 0 hsecond)
  · intro m l hl
    obtain rfl : TraceLine.cfgwr 0x00 (1 + 2 * modeNumber m) = l := List.singleton_inj.mp hl
    have hhalf : (1 + 2 * modeNumber m) / 2 = modeNumber m := by omega
    have hodd : (1 + 2 * modeNumber m).testBit 0 = true := by simp
    have hwrite := stepsTo_ctrl_write (v := 1 + 2 * modeNumber m) hp hen (hhalf ▸ ofBits_modeNumber m) tr k
    rw [hodd] at hwrite
    exact runSteps_succ 0 hwrite

/-- Settles O50: `runSteps_of_press`, with the registers after an even and after an odd tick written out. -/
theorem pressAboveTheFloorAlternates : Obligations.PressAboveTheFloorAlternates := by
  unfold Obligations.PressAboveTheFloorAlternates
  intro p b s press tr k hen hf hpress m hm
  exact runSteps_of_press hen hf hpress tr k hm

/-- Settles O53: a tick selects the same event, and its rule carries the two registers along. -/
theorem ticksIgnoreWiremapAndTolerance : Obligations.TicksIgnoreWiremapAndTolerance := by
  unfold Obligations.TicksIgnoreWiremapAndTolerance
  intro p b b' i tr k w t htick hstep
  obtain ⟨hr, hc⟩ := State.event_of_isTick (s := State.mk' p b (i :: tr) k) htick
  have hl := (StepsTo.leaves (s := State.mk' p b (i :: tr) k) (b := b') hstep).withDecoder hr hc w t
  rw [← State.event_withDecoder w t] at hl
  exact stepsTo_iff_leaves.mpr hl

/-- Settles O54: 0xF0 names every slot's wire, and no other map names the same wires. -/
theorem wiremapAgreesWithDispatchOnlyAtF0 : Obligations.WiremapAgreesWithDispatchOnlyAtF0 := by
  unfold Obligations.WiremapAgreesWithDispatchOnlyAtF0
  intro w
  constructor
  · rintro rfl
    exact wireOfMap_f0_slotOf
  · intro h
    refine wireOfMap_injective (funext fun s => ?_)
    obtain hs | hs := exists_slotOf s <;> rw [hs, h, wireOfMap_f0_slotOf]

end Sys2Proof.Machine
